-- ==== Sys2Proof/Word.lean ====
section
/-!
DEFINITION. The words of the link and the names of the part's numbered objects
(spec/00_scope.md 0.5 and 0.7, spec/10_the_master_port_link.md).
-/

namespace Sys2Proof

/-- One byte of the link. -/
abbrev Byte := BitVec 8

/-- A two-byte field: a layout tag, a sequence, a 16-bit counter, a notice mask, a timer period. -/
abbrev Half := BitVec 16

/-- A handle: 32 opaque bits (R1). -/
abbrev Handle := BitVec 32

/-- Ports P0 to P3. -/
abbrev Port := Fin 4

/-- Pools 0 to 3. -/
abbrev PoolId := Fin 4

/-- Boundary timers T0 to T3. -/
abbrev TimerId := Fin 4

/-- Streams S0 to S15. -/
abbrev StreamId := Fin 16

/-- Consumer slots C0 to C2 of a stream. -/
abbrev SlotId := Fin 3

/-- Buffer records B0 to B63. -/
abbrev BufferId := Fin 64

end Sys2Proof
end

