-- ==== Sys2Proof/Syntax.lean ====
section
/-!
DEFINITION. The commands of the part: one constructor for each row of spec/opcode_table.json.
A request row is a SEND transaction whose frame carries that request code; its operands are the port, the frame's tag
and the frame's payload bytes, of whatever length (R168 says what a length the catalogue does not allow does).
-/

namespace Sys2Proof

/-- A level of an input line: BND as qualified (R84), RESET_N (R183). -/
inductive Level where
  | low
  | high
  deriving DecidableEq, Repr

/-- What begins a device reset (R183, R184). -/
inductive ResetCause where
  /-- RESET_N has been held low for 1 µs. -/
  | pin
  /-- The supplies rise; `resetN` is the level of RESET_N meanwhile. -/
  | powerUp (resetN : Level)
  deriving DecidableEq, Repr

/-- The commands: requests, the other transactions of the link, and the events of the part. -/
inductive Instr where
  | attach (p : Port) (tag : Byte) (payload : List Byte)
  | detach (p : Port) (tag : Byte) (payload : List Byte)
  | renew (p : Port) (tag : Byte) (payload : List Byte)
  | setNoticeMask (p : Port) (tag : Byte) (payload : List Byte)
  | createPool (p : Port) (tag : Byte) (payload : List Byte)
  | dissolvePool (p : Port) (tag : Byte) (payload : List Byte)
  | claimPool (p : Port) (tag : Byte) (payload : List Byte)
  | registerBuffer (p : Port) (tag : Byte) (payload : List Byte)
  | retireBuffer (p : Port) (tag : Byte) (payload : List Byte)
  | openStream (p : Port) (tag : Byte) (payload : List Byte)
  | configureStream (p : Port) (tag : Byte) (payload : List Byte)
  | closeStream (p : Port) (tag : Byte) (payload : List Byte)
  | claimStream (p : Port) (tag : Byte) (payload : List Byte)
  | joinProducer (p : Port) (tag : Byte) (payload : List Byte)
  | leave (p : Port) (tag : Byte) (payload : List Byte)
  | acquire (p : Port) (tag : Byte) (payload : List Byte)
  | abandon (p : Port) (tag : Byte) (payload : List Byte)
  | publish (p : Port) (tag : Byte) (payload : List Byte)
  | signal (p : Port) (tag : Byte) (payload : List Byte)
  | joinConsumer (p : Port) (tag : Byte) (payload : List Byte)
  | retuneConsumer (p : Port) (tag : Byte) (payload : List Byte)
  | ackStall (p : Port) (tag : Byte) (payload : List Byte)
  | startTimer (p : Port) (tag : Byte) (payload : List Byte)
  | stopTimer (p : Port) (tag : Byte) (payload : List Byte)
  | claimTimer (p : Port) (tag : Byte) (payload : List Byte)
  | queryDevice (p : Port) (tag : Byte) (payload : List Byte)
  | queryPort (p : Port) (tag : Byte) (payload : List Byte)
  | queryPool (p : Port) (tag : Byte) (payload : List Byte)
  | queryStream (p : Port) (tag : Byte) (payload : List Byte)
  | queryBuffer (p : Port) (tag : Byte) (payload : List Byte)
  /-- A SEND window with the bytes clocked after the transaction code 0x02. -/
  | send (p : Port) (bytes : List Byte)
  /-- A STATUS window with `more` whole bytes clocked after the transaction code. -/
  | status (p : Port) (more : Nat)
  /-- A FETCH_RESPONSE window with `clocked` whole bytes after the transaction code. -/
  | fetchResponse (p : Port) (clocked : Nat)
  /-- A FETCH_NOTICE window with `clocked` whole bytes after the transaction code. -/
  | fetchNotice (p : Port) (clocked : Nat)
  /-- A window by its bytes, the first one and the whole bytes `more` after it. The first decides what the window is (R175); the
  rows above are the windows of the four transaction codes, and this one, as the table has it, those of every other byte. -/
  | badTransaction (p : Port) (first : Byte) (more : List Byte)
  | qualifiedRisingEdge (p : Port)
  | qualifiedFall (p : Port)
  | timerExpiry (t : TimerId)
  | boundary (st : StreamId) (c : SlotId)
  | acquireWaitExpiry (st : StreamId)
  /-- The entry is named by its stream and its buffer (R6: a buffer stands at most once in a list). -/
  | signalExpiry (st : StreamId) (b : BufferId)
  | leaseExpiry (p : Port)
  | streamStep (p : Port) (st : StreamId)
  | sweepThirdStage (p : Port)
  | sweepFourthStage (p : Port)
  | deviceReset (cause : ResetCause)
  | resetRelease
  | recoveryEnd
  /-- `tooSoon`: select had been high for less than the time of Table 10-9 (R175). -/
  | fallOfSelect (p : Port) (tooSoon : Bool)
  | powerUpEnd
  deriving DecidableEq, Repr

/-- The four transactions that a first byte names (Table 10-1). -/
inductive TransactionName where
  | status | send | fetchResponse | fetchNotice
  deriving DecidableEq, Repr

/-- The request catalogue (Table 9-2). -/
inductive RequestName where
  | attach | detach | renew | setNoticeMask
  | createPool | dissolvePool | claimPool | registerBuffer | retireBuffer
  | openStream | configureStream | closeStream | claimStream | joinProducer | leave
  | acquire | abandon | publish | signal
  | joinConsumer | retuneConsumer | ackStall
  | startTimer | stopTimer | claimTimer
  | queryDevice | queryPort | queryPool | queryStream | queryBuffer
  deriving DecidableEq, Repr

end Sys2Proof
end

