-- ==== Sys2Proof/Decode.lean ====
section
/-!
DEFINITION. spec/opcode_table.json gives no row any bits ("fields" is empty in every row and there is no "fixed"), so no word
spells a command (log 26). What the link reads from bytes is the transaction, from the first byte of a window (here), and the request, from
the bytes of its frame (R177, in Machine/Link.lean).
-/

namespace Sys2Proof

/-- The command that a word spells by the table's bits: none, for every word. -/
def decodeTableWord (_nbits _w : Nat) : Option Instr := none

/-- The transaction that the first byte of a window names; any other byte names none (Table 10-1, R175). -/
def transactionOf (first : Byte) : Option TransactionName :=
  if first = 0x01 then some .status
  else if first = 0x02 then some .send
  else if first = 0x03 then some .fetchResponse
  else if first = 0x04 then some .fetchNotice
  else none

end Sys2Proof
end

