-- ==== Sys2Proof/Config.lean ====
section
/-!
DEFINITION. What the part fixes (spec/00_scope.md, Table 0-3) and the free values of the model.
-/

namespace Sys2Proof.Config

/-- Records a port's response queue and request window may count (Table 0-3, R157, R158). -/
def requestWindow : Nat := 4

/-- Records a notice queue holds (Table 0-3, R118). -/
def noticeQueueLength : Nat := 16

/-- The largest payload of a request frame, in bytes (Table 0-3, R177). -/
def maxPayload : Nat := 32

/-- Bytes of a response or notice record on the link (Table 0-3). -/
def recordBytes : Nat := 24

/-- The saturation value of a lost count and of a repeat count (Table 0-3, R109). -/
def saturation : Nat := 255

/-- Units of 100 µs in a millisecond: the unit in which the model holds every remaining time (log 3). -/
def unitsPerMs : Nat := 10

/-- Units of 100 µs in one unit of a lease interval, 10 ms (R133). -/
def unitsPerLeaseUnit : Nat := 100

/-- FREE VALUE (log 11). The spec releases "every FILLING buffer" of a stream and removes "every unsignalled entry"
in no stated order (R35 steps 3 and 4, R147 steps 2 and 3, R149). At the `n`-th such choice the buffers are taken in rising
order of this rank, which nothing constrains; so they are taken in any order at all. -/
opaque releaseRank : Nat → BufferId → Nat

/-- FREE VALUE (log 15). What the bits of a flags byte read that Table 10-7b gives no meaning: at the `n`-th choice, the byte at
position `i` among those of the answer that have such bits takes them from here. Nothing constrains them. -/
opaque unnamedBits : Nat → Nat → Byte

end Sys2Proof.Config
end

