-- ==== Sys2Proof/Machine/State.lean ====
section
/-!
DEFINITION. Everything the spec says the part holds, as plain data, and its value after a device reset.
-/

namespace Sys2Proof.Machine

/-! ### Buffers and pools (spec/01_buffers_and_pools.md) -/

/-- Table 1-2. -/
inductive BufferState where
  | vacant | free | filling | published | held
  deriving DecidableEq, Repr

/-- A buffer record (Table 1-1, R1). -/
structure Buffer where
  state : BufferState
  pool : Option PoolId
  handle : Handle
  layout : Half
  generation : Byte
  stream : Option StreamId
  holds : Nat
  retiring : Bool
  deriving DecidableEq, Repr

/-- Table 1-1, third column. -/
def Buffer.reset : Buffer :=
  { state := .vacant, pool := none, handle := 0, layout := 0, generation := 0, stream := none, holds := 0, retiring := false }

/-- R10. -/
inductive PoolState where
  | unused | active
  deriving DecidableEq, Repr

/-- A pool record (Table 1-4, R10). -/
structure Pool where
  state : PoolState
  owner : Option Port
  /-- Oldest-freed first. -/
  free : List BufferId
  registered : Nat
  /-- Oldest-parked first. -/
  wait : List StreamId
  deriving DecidableEq, Repr

/-- Table 1-4, third column. -/
def Pool.reset : Pool :=
  { state := .unused, owner := none, free := [], registered := 0, wait := [] }

/-! ### Streams (spec/02_streams.md, spec/04_publication_and_the_pending_list.md, spec/06_presentation.md) -/

/-- Table 2-2. -/
inductive StreamState where
  | closed | vacant | live | draining
  deriving DecidableEq, Repr

/-- The presentation policy of a stream. -/
inductive Policy where
  | latest | every
  deriving DecidableEq, Repr

/-- The boundary source of a consumer slot (Table 6-1). -/
inductive Source where
  | line
  | timer (t : TimerId)
  deriving DecidableEq, Repr

/-- A subset of {C0, C1, C2}. -/
structure SlotSet where
  c0 : Bool
  c1 : Bool
  c2 : Bool
  deriving DecidableEq, Repr

/-- A pending list entry (Table 4-1, R63). -/
structure Entry where
  buffer : BufferId
  sequence : Half
  signalled : Bool
  /-- Remaining time in units of 100 µs, or absent. -/
  deadline : Option Nat
  passed : SlotSet
  shown : Bool
  deriving DecidableEq, Repr

/-- A consumer slot (Table 6-1, R93). -/
structure Slot where
  occupied : Bool
  port : Option Port
  source : Source
  current : Option BufferId
  currentSequence : Option Half
  repeats : Nat
  threshold : Nat
  stalled : Bool
  deriving DecidableEq, Repr

/-- Table 6-1, third column: the cleared values. -/
def Slot.cleared : Slot :=
  { occupied := false, port := none, source := .line, current := none, currentSequence := none, repeats := 0,
    threshold := 0, stalled := false }

/-- The parked acquire field of a stream (R47). -/
structure Parked where
  tag : Byte
  /-- Remaining wait in units of 100 µs. -/
  remaining : Nat
  deriving DecidableEq, Repr

/-- A stream record (Table 2-1, R21). -/
structure Stream where
  state : StreamState
  owner : Option Port
  producer : Option Port
  signaller : Option Port
  pool : PoolId
  policy : Policy
  depth : Nat
  quota : Nat
  reserve : Nat
  /-- In ms; 0 = no limit. -/
  signalLimit : Nat
  /-- Bit n stands for Pn (Table 10-6). -/
  producerMask : BitVec 4
  consumerMask : BitVec 4
  nextSequence : Half
  /-- Oldest first. -/
  list : List Entry
  slots : Vector Slot 3
  parked : Option Parked
  published : Half
  flips : Half
  dropped : Half
  expired : Half
  deriving DecidableEq, Repr

/-- Table 2-1, third column: the device-reset and cleared value. -/
def Stream.cleared : Stream :=
  { state := .closed, owner := none, producer := none, signaller := none, pool := 0, policy := .latest, depth := 1,
    quota := 1, reserve := 0, signalLimit := 0, producerMask := 0, consumerMask := 0, nextSequence := 0, list := [],
    slots := Vector.replicate 3 Slot.cleared, parked := none, published := 0, flips := 0, dropped := 0, expired := 0 }

/-! ### Boundary timers (spec/05_boundary_sources.md) -/

/-- Table 5-1. -/
inductive TimerState where
  | stopped | running
  deriving DecidableEq, Repr

/-- A boundary timer (Table 5-1, R87). -/
structure Timer where
  state : TimerState
  owner : Option Port
  /-- In units of 100 µs. -/
  period : Half
  /-- Units of 100 µs to the next expiry; present only while RUNNING. -/
  remaining : Option Nat
  deriving DecidableEq, Repr

/-- Table 5-1, third column. -/
def Timer.reset : Timer :=
  { state := .stopped, owner := none, period := 1, remaining := none }

/-! ### Ports (spec/07_notices.md to spec/10_the_master_port_link.md) -/

/-- R134. -/
inductive PortState where
  | detached | attached | lapsing
  deriving DecidableEq, Repr

/-- Table 9-1. -/
inductive ResultCode where
  | ok | denied | noSuch | badState | stale | range | full | quota | exhausted | timeout | cancelled | closed
  | alreadyWaiting | noSlot | unknown
  deriving DecidableEq, Repr

/-- Table 10-3. -/
inductive FrameResult where
  | none | taken | replayed | duplicateDropped | windowFull | crcError | lengthError | truncated | notAttached | resetting
  | badTransaction
  deriving DecidableEq, Repr

/-- A response record (R158). -/
structure Response where
  tag : Byte
  code : Byte
  result : ResultCode
  /-- Result data, up to 21 bytes. -/
  data : List Byte
  deriving DecidableEq, Repr

/-- The role a lost member held (Table 10-8a). -/
inductive LostRole where
  | producer
  | consumer (c : SlotId)
  deriving DecidableEq, Repr

/-- A notice record by its contents (Table 7-2, R119). A record of kind NONE stands in no queue. -/
inductive Notice where
  | flip (st : StreamId) (c : SlotId) (b : BufferId) (generation : Byte) (handle : Handle) (layout : Half)
      (sequence : Half) (skipped : Nat)
  | stall (st : StreamId) (c : SlotId) (b : BufferId) (generation : Byte) (sequence : Half) (repeats : Nat)
      (threshold : Nat)
  | recycled (st : StreamId) (b : BufferId) (generation : Byte)
  | dropped (st : StreamId) (b : BufferId) (generation : Byte) (sequence : Half)
  | signalExpired (st : StreamId) (b : BufferId) (generation : Byte) (sequence : Half)
  | memberLost (st : StreamId) (port : Port) (role : LostRole) (session : Byte)
  | ownerLost (st : StreamId) (port : Port) (session : Byte)
  | streamClosing (st : StreamId) (outstanding : Nat)
  | streamClosed (st : StreamId) (published flips dropped expired : Half)
  | overflow (lost : Nat)
  deriving DecidableEq, Repr

/-- The replay record (R163). `copy` is absent while the recorded request is parked; `parkedOn` then names the stream whose
parked acquire is that request (log 18). -/
structure Replay where
  tag : Byte
  code : Byte
  check : Byte
  copy : Option Response
  parkedOn : Option StreamId
  deriving DecidableEq, Repr

/-- The step a sweep takes next (Table 8-3, stages 2 to 4). -/
inductive SweepStep where
  | stream (st : StreamId)
  | thirdStage
  | fourthStage
  deriving DecidableEq, Repr

/-- A sweep under way (log 16): its next step, and the tag of the DETACH that began it, if one did. -/
structure Sweep where
  next : SweepStep
  detachTag : Option Byte
  deriving DecidableEq, Repr

/-- What the port fixed at the fall of select (R175): its status byte and the records a fetch would present; no record stands
for the empty response record and for NONE. -/
structure Window where
  status : Byte
  response : Option Response
  notice : Option Notice
  deriving DecidableEq, Repr

/-- The port's transaction (R175, R184): none, open, or a window in which nothing counts. -/
inductive Select where
  | high
  | low (w : Window)
  | void
  deriving DecidableEq, Repr

/-- A port record (Table 8-1, R133) with the qualified level of the port's BND line (R84), the progress of its sweep and its
open transaction. -/
structure PortRecord where
  state : PortState
  session : Byte
  /-- In units of 10 ms. -/
  leaseInterval : Byte
  /-- In units of 100 µs; present only while ATTACHED. -/
  leaseRemaining : Option Nat
  window : Nat
  /-- Oldest first. -/
  responses : List Response
  replay : Option Replay
  /-- Oldest first. -/
  notices : List Notice
  lost : Nat
  mask : Half
  lastFrame : FrameResult
  framesTaken : Half
  frameErrors : Half
  noticesLost : Half
  bnd : Level
  sweep : Option Sweep
  select : Select
  /-- The model's own (log 12): the bytes the part shifted out in the port's last window; absent where it drove none the spec
  states. -/
  shifted : Option (List Byte)
  deriving DecidableEq, Repr

/-- The default notice mask (R121, Table 10-6): every kind but RECYCLED and DROPPED. -/
def defaultMask : Half := 0x03E6

/-- Table 8-1, second column. -/
def PortRecord.reset : PortRecord :=
  { state := .detached, session := 0, leaseInterval := 1, leaseRemaining := none, window := 0, responses := [],
    replay := none, notices := [], lost := 0, mask := defaultMask, lastFrame := .none, framesTaken := 0, frameErrors := 0,
    noticesLost := 0, bnd := .low, sweep := none, select := .high, shifted := none }

/-! ### The part -/

/-- R183, R184: the device reset, the recovery interval, and service. -/
inductive Phase where
  | resetting | recovering | serving
  deriving DecidableEq, Repr

/-- The part. -/
structure State where
  buffers : Vector Buffer 64
  pools : Vector Pool 4
  streams : Vector Stream 16
  timers : Vector Timer 4
  ports : Vector PortRecord 4
  /-- Boundaries addressed and not yet taken (R86), oldest first (log 17). -/
  addressed : List (StreamId × SlotId)
  phase : Phase
  /-- The level of RESET_N. -/
  resetN : Level
  /-- The supplies are within limits with CLK_IN running (R184). -/
  supplies : Bool
  /-- The model's own: how often a free value of Config has been read (log 11, log 15). -/
  choices : Nat
  /-- The commands waiting, first in, first out. -/
  pending : List Instr
  deriving DecidableEq, Repr

/-- The part right after a device reset and its recovery interval (R183, R184; log 1), with no command waiting. -/
def State.reset : State :=
  { buffers := Vector.replicate 64 Buffer.reset
    pools := Vector.replicate 4 Pool.reset
    streams := Vector.replicate 16 Stream.cleared
    timers := Vector.replicate 4 Timer.reset
    ports := Vector.replicate 4 PortRecord.reset
    addressed := []
    phase := .serving
    resetN := .high
    supplies := true
    choices := 0
    pending := [] }

/-- Why a step could stop with a fault. The spec stops the part nowhere: a refusal is a result code, a rejection a frame
result, and both are effects on State. So nothing raises a fault and the type is empty. -/
inductive Fault where
  deriving DecidableEq, Repr

/-- Why a step could have no meaning. -/
inductive Refusal where
  /-- An arm of exec that has no meaning yet; no arm is of this kind. Safe: the model would stop where the part goes on. -/
  | notModelled (mnemonic : String)
  deriving DecidableEq, Repr

end Sys2Proof.Machine
end

