-- ==== Sys2Proof/Machine/Flags.lean ====
section
/-!
DEFINITION. Sets, marks and indications: slot sets (R63), admit masks (R25), the notice mask (R121), the occupied slots of a
stream, the status byte (Table 10-2), ATN_N (R132), and the code bytes of states and results (Table 10-3, Table 10-7a).
-/

namespace Sys2Proof.Machine

/-! ### Sets -/

/-- The slot stands in the set. -/
def SlotSet.has (x : SlotSet) (c : SlotId) : Bool :=
  match c with
  | 0 => x.c0
  | 1 => x.c1
  | 2 => x.c2

/-- The set with slot `c` in it when `v`, out of it otherwise. -/
def SlotSet.put (x : SlotSet) (c : SlotId) (v : Bool) : SlotSet :=
  match c with
  | 0 => { x with c0 := v }
  | 1 => { x with c1 := v }
  | 2 => { x with c2 := v }

/-- No slot. -/
def SlotSet.empty : SlotSet := ⟨false, false, false⟩

/-- Every slot of `y` stands in `x`. -/
def SlotSet.covers (x y : SlotSet) : Bool :=
  (!y.c0 || x.c0) && (!y.c1 || x.c1) && (!y.c2 || x.c2)

/-- Some slot stands in the set. -/
def SlotSet.nonempty (x : SlotSet) : Bool := x.c0 || x.c1 || x.c2

/-- The consumer slot `c` of a stream. -/
def Stream.slot (x : Stream) (c : SlotId) : Slot := x.slots.get c

/-- The occupied slots of a stream. -/
def Stream.occupied (x : Stream) : SlotSet :=
  ⟨(x.slot 0).occupied, (x.slot 1).occupied, (x.slot 2).occupied⟩

/-- The port is in the admit mask (R25; bit n stands for Pn, Table 10-6). -/
def admits (mask : BitVec 4) (p : Port) : Bool := mask.getLsbD p.val

/-- A producer's or a consumer's port (R24). -/
def Stream.isMember (x : Stream) (p : Port) : Bool :=
  x.producer == some p ||
    ((x.slot 0).occupied && (x.slot 0).port == some p) ||
    ((x.slot 1).occupied && (x.slot 1).port == some p) ||
    ((x.slot 2).occupied && (x.slot 2).port == some p)

/-- The stream has a producer or an occupied slot (R41). -/
def Stream.hasMember (x : Stream) : Bool := x.producer.isSome || x.occupied.nonempty

/-- The lowest slot of the stream that port `p` occupies. -/
def Stream.slotOf (x : Stream) (p : Port) : Option SlotId :=
  [0, 1, 2].find? fun c => (x.slot c).occupied && (x.slot c).port == some p

/-- The lowest unoccupied slot (R98). -/
def Stream.freeSlot (x : Stream) : Option SlotId :=
  [0, 1, 2].find? fun c => !(x.slot c).occupied

/-- The signalling port (R33): the configured signaller, or the producer when none is configured. -/
def Stream.signallingPort (x : Stream) : Option Port :=
  match x.signaller with
  | some p => some p
  | none => x.producer

/-- The state is one of a buffer bound to a stream (Table 1-2). -/
def BufferState.inUse : BufferState → Bool
  | .vacant | .free => false
  | .filling | .published | .held => true

/-! ### Code bytes -/

/-- Table 10-3. -/
def FrameResult.code : FrameResult → Byte
  | .none => 0
  | .taken => 1
  | .replayed => 2
  | .duplicateDropped => 3
  | .windowFull => 4
  | .crcError => 5
  | .lengthError => 6
  | .truncated => 7
  | .notAttached => 8
  | .resetting => 9
  | .badTransaction => 10

/-- The result codes below Table 10-7a. -/
def ResultCode.code : ResultCode → Byte
  | .ok => 0x00
  | .denied => 0x01
  | .noSuch => 0x02
  | .badState => 0x03
  | .stale => 0x04
  | .range => 0x05
  | .full => 0x06
  | .quota => 0x07
  | .exhausted => 0x08
  | .timeout => 0x09
  | .cancelled => 0x0A
  | .closed => 0x0B
  | .alreadyWaiting => 0x0C
  | .noSlot => 0x0D
  | .unknown => 0x0E

/-- The state fields below Table 10-7a. -/
def PortState.code : PortState → Byte
  | .detached => 0
  | .attached => 1
  | .lapsing => 2

/-- The state fields below Table 10-7a. -/
def BufferState.code : BufferState → Byte
  | .vacant => 0
  | .free => 1
  | .filling => 2
  | .published => 3
  | .held => 4

/-- The state fields below Table 10-7a. -/
def StreamState.code : StreamState → Byte
  | .closed => 0
  | .vacant => 1
  | .live => 2
  | .draining => 3

/-- The state fields below Table 10-7a. -/
def PoolState.code : PoolState → Byte
  | .unused => 0
  | .active => 1

/-- Table 10-6. -/
def Policy.code : Policy → Byte
  | .latest => 0
  | .every => 1

/-- Table 10-6. -/
def Source.code : Source → Byte
  | .line => 0
  | .timer t => BitVec.ofNat 8 (t.val + 1)

/-- Table 10-7b, QUERY_PORT. -/
def levelCode : Level → Byte
  | .low => 0
  | .high => 1

/-- One bit of a byte. -/
def bit (n : Nat) (v : Bool) : Byte := if v then BitVec.ofNat 8 (2 ^ n) else 0

/-- The kind byte of a notice record, which is also its bit in the notice mask (Table 10-8a, R182). -/
def Notice.kind : Notice → Nat
  | .flip .. => 1
  | .stall .. => 2
  | .recycled .. => 3
  | .dropped .. => 4
  | .signalExpired .. => 5
  | .memberLost .. => 6
  | .ownerLost .. => 7
  | .streamClosing .. => 8
  | .streamClosed .. => 9
  | .overflow .. => 10

/-- The kind is enabled in the mask (R121). -/
def maskEnables (mask : Half) (n : Notice) : Bool := mask.getLsbD n.kind

/-- The bits of a mask that may be set: the nine maskable kinds (R122, Table 10-6). -/
def maskableKinds : Half := 0x03FE

/-! ### Indications of a port -/

/-- The status byte (Table 10-2). -/
def PortRecord.statusByte (r : PortRecord) : Byte :=
  bit 7 (r.state == .attached) ||| bit 6 (r.state == .lapsing) ||| bit 5 (!r.responses.isEmpty) |||
    bit 4 (!r.notices.isEmpty) ||| r.lastFrame.code

/-- ATN_N (R132, R183, R184): low while a queue holds a record, high during reset and recovery. -/
def State.atn (s : State) (p : Port) : Level :=
  let r := s.ports.get p
  if s.phase == .serving && (!r.responses.isEmpty || !r.notices.isEmpty) then .low else .high

end Sys2Proof.Machine
end

