-- ==== Sys2Proof/Machine/Operands.lean ====
section
/-!
DEFINITION. The operand forms of the requests (Table 10-6, R181) and the byte order of the link: most significant byte first
(spec/00_scope.md 0.7).
-/

namespace Sys2Proof.Machine

/-! ### Byte order -/

/-- A 16-bit value from its two bytes. -/
def be16 (hi lo : Byte) : Half := hi ++ lo

/-- A 32-bit value from its four bytes. -/
def be32 (a b c d : Byte) : Handle := a ++ b ++ c ++ d

/-- The two bytes of a 16-bit value. -/
def bytes16 (v : Half) : List Byte := [v.extractLsb' 8 8, v.extractLsb' 0 8]

/-- The four bytes of a 32-bit value. -/
def bytes32 (v : Handle) : List Byte :=
  [v.extractLsb' 24 8, v.extractLsb' 16 8, v.extractLsb' 8 8, v.extractLsb' 0 8]

/-- A count as one byte. -/
def byte (n : Nat) : Byte := BitVec.ofNat 8 n

/-! ### Numbered objects -/

/-- A number below `n` as an index. -/
def index? (n : Nat) (b : Byte) : Option (Fin n) :=
  if h : b.toNat < n then some ⟨b.toNat, h⟩ else none

/-- An index, or 0xFF for absent (Table 10-7a). -/
def absentByte {n : Nat} : Option (Fin n) → Byte
  | some i => byte i.val
  | none => 0xFF

/-- An index in four bits, or 0xF for absent (Table 10-7a). -/
def absentNibble {n : Nat} : Option (Fin n) → Byte
  | some i => byte i.val
  | none => 0x0F

/-- Two four-bit fields in a byte, the first in bits 7–4. -/
def nibbles (hi lo : Byte) : Byte := (hi <<< 4) ||| (lo &&& 0x0F)

/-! ### Parameter encodings (Table 10-6) -/

/-- A signaller byte: a port, or 0xFF for absent; no value where the byte is neither (R181). -/
def signaller? (b : Byte) : Option (Option Port) :=
  if b = 0xFF#8 then some none
  else match index? 4 b with
    | some p => some (some p)
    | none => none

/-- An admit mask: bits 7–4 must be 0 (R181). -/
def admitMask? (b : Byte) : Option (BitVec 4) :=
  if b.toNat < 16 then some (b.extractLsb' 0 4) else none

/-- A policy byte. -/
def policy? (b : Byte) : Option Policy :=
  if b = 0#8 then some .latest else if b = 1#8 then some .every else none

/-- A source byte: 0 = LINE, 1–4 = T0–T3. -/
def source? (b : Byte) : Option Source :=
  if b = 0#8 then some .line
  else match index? 4 (b - 1) with
    | some t => some (.timer t)
    | none => none

/-- A signalled flag: 0 or 1 (R65). -/
def flag? (b : Byte) : Option Bool :=
  if b = 0#8 then some false else if b = 1#8 then some true else none

/-! ### Configuration items (R26, R28, Table 2-3) -/

/-- The value bytes of the configuration items a request gives. -/
structure ConfigItems where
  pool : Option Byte
  policy : Option Byte
  depth : Option Byte
  quota : Option Byte
  reserve : Option Byte
  signalLimit : Option Byte
  signaller : Option Byte
  producerMask : Option Byte
  consumerMask : Option Byte
  deriving DecidableEq, Repr

/-- OPEN_STREAM gives all nine, in the order of R26. -/
def openItems? : List Byte → Option ConfigItems
  | [pool, policy, depth, quota, reserve, limit, prod, cons, sig] =>
    some { pool := some pool, policy := some policy, depth := some depth, quota := some quota, reserve := some reserve,
           signalLimit := some limit, signaller := some sig, producerMask := some prod, consumerMask := some cons }
  | _ => none

/-- The next value byte when its item is selected; no result where the bytes run out. -/
def takeItem (selected : Bool) (values : List Byte) : Option (Option Byte × List Byte) :=
  if selected then
    match values with
    | v :: rest => some (some v, rest)
    | [] => none
  else some (none, values)

/-- CONFIGURE_STREAM's items (R28): the selected ones, in the order of Table 2-3 and with nothing left over; no result where
the payload's length does not match its selector. -/
def selectedItems? (selector : Byte) (values : List Byte) : Option ConfigItems := do
  let (pool, v) ← takeItem (selector.getLsbD 0) values
  let (policy, v) ← takeItem (selector.getLsbD 1) v
  let (depth, v) ← takeItem (selector.getLsbD 2) v
  let (quota, v) ← takeItem (selector.getLsbD 3) v
  let (reserve, v) ← takeItem (selector.getLsbD 4) v
  let (limit, v) ← takeItem (selector.getLsbD 5) v
  let (sig, v) ← takeItem (selector.getLsbD 6) v
  let (prod, v) ← takeItem (selector.getLsbD 7) v
  let (cons, v) ← takeItem (selector.getLsbD 7) v
  if v.isEmpty then
    some { pool := pool, policy := policy, depth := depth, quota := quota, reserve := reserve, signalLimit := limit,
           signaller := sig, producerMask := prod, consumerMask := cons }
  else none

/-- An absent item is in range; a present one is judged. -/
def itemOk (x : Option Byte) (good : Byte → Bool) : Bool :=
  match x with
  | some b => good b
  | none => true

/-- The item's value, or the present one where it is not given. -/
def itemNat (x : Option Byte) (present : Nat) : Nat :=
  match x with
  | some b => b.toNat
  | none => present

/-- The ranges of R26, with the reserve judged against the quota the stream would have after the request (R29, check 5;
log 23). `quota` and `reserve` are the present values. -/
def ConfigItems.inRange (c : ConfigItems) (quota reserve : Nat) : Bool :=
  itemOk c.pool (fun b => decide (b.toNat < 4)) &&
  itemOk c.policy (fun b => (policy? b).isSome) &&
  itemOk c.depth (fun b => decide (1 ≤ b.toNat) && decide (b.toNat ≤ 8)) &&
  itemOk c.quota (fun b => decide (1 ≤ b.toNat) && decide (b.toNat ≤ 16)) &&
  (!(c.quota.isSome || c.reserve.isSome) || decide (itemNat c.reserve reserve ≤ itemNat c.quota quota)) &&
  itemOk c.producerMask (fun b => (admitMask? b).isSome) &&
  itemOk c.consumerMask (fun b => (admitMask? b).isSome) &&
  itemOk c.signaller (fun b => (signaller? b).isSome)

/-- The pool the stream would name after the request. -/
def ConfigItems.poolOf (c : ConfigItems) (present : PoolId) : PoolId :=
  match c.pool with
  | some b => (index? 4 b).getD present
  | none => present

/-- The policy the stream would have after the request. -/
def ConfigItems.policyOf (c : ConfigItems) (present : Policy) : Policy :=
  match c.policy with
  | some b => (policy? b).getD present
  | none => present

/-- The stream with the given items at their new values. -/
def ConfigItems.apply (c : ConfigItems) (x : Stream) : Stream :=
  { x with
    pool := c.poolOf x.pool
    policy := c.policyOf x.policy
    depth := itemNat c.depth x.depth
    quota := itemNat c.quota x.quota
    reserve := itemNat c.reserve x.reserve
    signalLimit := itemNat c.signalLimit x.signalLimit
    signaller := match c.signaller with
      | some b => (signaller? b).getD x.signaller
      | none => x.signaller
    producerMask := match c.producerMask with
      | some b => (admitMask? b).getD x.producerMask
      | none => x.producerMask
    consumerMask := match c.consumerMask with
      | some b => (admitMask? b).getD x.consumerMask
      | none => x.consumerMask }

end Sys2Proof.Machine
end

