-- ==== Sys2Proof/Machine/Ops.lean ====
section
/-!
DEFINITION. The shared operations over the records: reading and changing one record, notices (R123), responses (R159), the
parked ACQUIRE (R47 to R51), grants and the pool arbiter (R46, R52, R53), release (R8, R9), holds (R7), removal of entries (R64),
settling (R77 to R80), the drain completion test (R40), and the outcome of a request.
-/

namespace Sys2Proof.Machine

/-! ### Records -/

/-- The ports, P0 first. -/
def allPorts : List Port := [0, 1, 2, 3]

/-- The pools, pool 0 first. -/
def allPools : List PoolId := [0, 1, 2, 3]

/-- The timers, T0 first. -/
def allTimers : List TimerId := [0, 1, 2, 3]

/-- The slots of a stream, C0 first. -/
def allSlots : List SlotId := [0, 1, 2]

/-- The streams, S0 first. -/
def allStreams : List StreamId := [0, 1, 2, 3, 4, 5, 6, 7, 8, 9, 10, 11, 12, 13, 14, 15]

/-- The buffer records, B0 first. -/
def allBuffers : List BufferId := List.ofFn fun i => i

/-- Every element of a bank changed by one function. -/
def mapBank {α : Type} {n : Nat} (f : α → α) (v : Vector α n) : Vector α n :=
  ⟨⟨v.toList.map f⟩, by simp⟩

/-- The buffer record `b`. -/
def State.buffer (s : State) (b : BufferId) : Buffer := s.buffers.get b

/-- The pool record `k`. -/
def State.pool (s : State) (k : PoolId) : Pool := s.pools.get k

/-- The stream record `st`. -/
def State.stream (s : State) (st : StreamId) : Stream := s.streams.get st

/-- The timer `t`. -/
def State.timer (s : State) (t : TimerId) : Timer := s.timers.get t

/-- The port record `p`. -/
def State.port (s : State) (p : Port) : PortRecord := s.ports.get p

/-- The state with buffer record `b` changed by `f`. -/
def State.modBuffer (s : State) (b : BufferId) (f : Buffer → Buffer) : State :=
  { s with buffers := s.buffers.set b (f (s.buffer b)) }

/-- The state with pool record `k` changed by `f`. -/
def State.modPool (s : State) (k : PoolId) (f : Pool → Pool) : State :=
  { s with pools := s.pools.set k (f (s.pool k)) }

/-- The state with stream record `st` changed by `f`. -/
def State.modStream (s : State) (st : StreamId) (f : Stream → Stream) : State :=
  { s with streams := s.streams.set st (f (s.stream st)) }

/-- The state with timer `t` changed by `f`. -/
def State.modTimer (s : State) (t : TimerId) (f : Timer → Timer) : State :=
  { s with timers := s.timers.set t (f (s.timer t)) }

/-- The state with port record `p` changed by `f`. -/
def State.modPort (s : State) (p : Port) (f : PortRecord → PortRecord) : State :=
  { s with ports := s.ports.set p (f (s.port p)) }

/-- The stream with consumer slot `c` changed by `f`. -/
def Stream.modSlot (x : Stream) (c : SlotId) (f : Slot → Slot) : Stream :=
  { x with slots := x.slots.set c (f (x.slot c)) }

/-- The outstanding count of a stream (R22): the records bound to it. -/
def State.outstanding (s : State) (st : StreamId) : Nat :=
  s.buffers.toList.countP fun r => r.stream == some st

/-- The entry of a list that describes buffer `b`. -/
def entryOf (list : List Entry) (b : BufferId) : Option Entry :=
  list.find? fun e => e.buffer == b

/-! ### Notices (R118 to R124) -/

/-- Disposal of a notice at queuing, on its port record (R123, Table 7-4). -/
def PortRecord.receive (n : Notice) (r : PortRecord) : PortRecord :=
  if r.state ≠ .attached then r
  else if maskEnables r.mask n = false then r
  else if r.notices.length < Config.noticeQueueLength then { r with notices := r.notices ++ [n] }
  else { r with lost := min Config.saturation (r.lost + 1), noticesLost := r.noticesLost + 1 }

/-- A notice queued to port `p`. -/
def queueNotice (p : Port) (n : Notice) (s : State) : State :=
  s.modPort p (PortRecord.receive n)

/-- A notice queued to a port if there is one: an absent recipient is passed over (R120). -/
def queueNoticeTo (p : Option Port) (n : Notice) (s : State) : State :=
  match p with
  | some q => queueNotice q n s
  | none => s

/-- A notice queued to each port of a list. -/
def queueNotices (ps : List Port) (n : Notice) (s : State) : State :=
  ps.foldl (fun t p => queueNotice p n t) s

/-- The distinct member ports of a stream (R24, R120). -/
def Stream.members (x : Stream) : List Port := allPorts.filter x.isMember

/-! ### Responses (R158, R159) -/

/-- The result of a request that completes: its code and data. -/
structure Reply where
  result : ResultCode
  data : List Byte
  deriving DecidableEq, Repr

/-- What executing a request gives: the state after it, and its reply unless it parks (R156). -/
abbrev Served := State × Option Reply

/-- Performed as asked, with result data. -/
def okWith (data : List Byte) (s : State) : Served := (s, some ⟨.ok, data⟩)

/-- Refused, changing nothing. -/
def refuse (r : ResultCode) (s : State) : Served := (s, some ⟨r, []⟩)

/-- A response joins the tail of its port's response queue. -/
def queueResponse (p : Port) (r : Response) (s : State) : State :=
  s.modPort p fun q => { q with responses := q.responses ++ [r] }

/-! ### The parked ACQUIRE (R47 to R51) -/

/-- The code byte of ACQUIRE (Table 10-5): the code a parked request's response carries. -/
def acquireCode : Byte := 0x40

/-- The end of a parked ACQUIRE (R47): the stream leaves its pool's wait queue and the parked acquire field becomes absent,
with its deadline. -/
def endParked (st : StreamId) (s : State) : State :=
  (s.modPool (s.stream st).pool fun k => { k with wait := k.wait.erase st }).modStream st
    fun x => { x with parked := none }

/-- The response copy is stored in the replay record, if the record still refers to the request (R163). -/
def storeParkedCopy (p : Port) (st : StreamId) (r : Response) (s : State) : State :=
  s.modPort p fun q =>
    { q with replay := q.replay.map fun m => if m.parkedOn = some st then { m with copy := some r, parkedOn := none } else m }

/-- A parked ACQUIRE completes with a response to the producer's port (R49, R50, R53). -/
def completeParked (st : StreamId) (reply : Reply) (s : State) : State :=
  match (s.stream st).parked, (s.stream st).producer with
  | some k, some p =>
    let r : Response := { tag := k.tag, code := acquireCode, result := reply.result, data := reply.data }
    storeParkedCopy p st r (queueResponse p r (endParked st s))
  | _, _ => endParked st s

/-- CANCELLED (R50), where an ACQUIRE is parked. -/
def cancelParked (st : StreamId) (s : State) : State :=
  if (s.stream st).parked.isSome then completeParked st ⟨.cancelled, []⟩ s else s

/-! ### Grants and the arbiter (R46, R52 to R54) -/

/-- A grant of buffer `b` of pool `k` to a stream (R46, R2): off the free list, FILLING, generation + 1, bound. -/
def grant (k : PoolId) (st : StreamId) (b : BufferId) (s : State) : State :=
  (s.modPool k fun q => { q with free := q.free.erase b }).modBuffer b
    fun r => { r with state := .filling, generation := r.generation + 1, stream := some st }

/-- The data of a grant's OK response (Table 10-7b): index, new generation, handle, layout tag. -/
def grantData (b : BufferId) (r : Buffer) : List Byte :=
  [byte b.val, r.generation] ++ bytes32 r.handle ++ bytes16 r.layout

/-- A grant that completes the stream's parked ACQUIRE (R53). -/
def arbiterGrant (k : PoolId) (st : StreamId) (b : BufferId) (s : State) : State :=
  let t := grant k st b s
  completeParked st ⟨.ok, grantData b (t.buffer b)⟩ t

/-- The stream is below its quota: eligible at all (R52). -/
def belowQuota (s : State) (st : StreamId) : Bool := decide (s.outstanding st < (s.stream st).quota)

/-- The stream is below its reserve (R52, step 1). -/
def belowReserve (s : State) (st : StreamId) : Bool := decide (s.outstanding st < (s.stream st).reserve)

/-- The arbiter's choice (R52): the first stream in queue order below its reserve, failing that the first below its quota. -/
def chooseWaiter (queue : List StreamId) (s : State) : Option StreamId :=
  match queue.find? fun st => belowReserve s st && belowQuota s st with
  | some st => some st
  | none => queue.find? (belowQuota s)

/-- Grants one at a time until the free list is empty or no stream in the queue is eligible (R52). Each grant takes one stream
off the queue, so the queue's length bounds them. -/
def arbiterLoop (k : PoolId) : Nat → State → State
  | 0, s => s
  | n + 1, s =>
    match (s.pool k).free, chooseWaiter (s.pool k).wait s with
    | b :: _, some st => arbiterLoop k n (arbiterGrant k st b s)
    | _, _ => s

/-- The arbiter runs for pool `k` (R52 to R54). -/
def runArbiter (k : PoolId) (s : State) : State := arbiterLoop k (s.pool k).wait.length s

/-! ### Release (R8, R9) -/

/-- The record after its release as a retiring buffer, and at every other change to VACANT: unregistered, its generation kept
(R1, R9). -/
def Buffer.unregistered (r : Buffer) : Buffer :=
  { r with state := .vacant, pool := none, handle := 0, layout := 0, stream := none, retiring := false }

/-- RECYCLED to the producer of the stream the buffer was bound to (R8, step 1). -/
def noticeRecycled (b : BufferId) (r : Buffer) (s : State) : State :=
  match r.stream with
  | some st => queueNoticeTo (s.stream st).producer (.recycled st b r.generation) s
  | none => s

/-- Release of a buffer in use (R8; R9 where it carries the retiring mark). A record that is VACANT or FREE, or that names no
pool, is bound to nothing and stays as it is (log 25). -/
def release (b : BufferId) (s : State) : State :=
  let r := s.buffer b
  match r.state.inUse, r.pool with
  | true, some k =>
    if r.retiring then
      noticeRecycled b r
        ((s.modBuffer b Buffer.unregistered).modPool k fun q => { q with registered := q.registered - 1 })
    else
      runArbiter k (noticeRecycled b r
        ((s.modBuffer b fun q => { q with state := .free, stream := none }).modPool k
          fun q => { q with free := q.free ++ [b] }))
  | _, _ => s

/-- Buffers released in the order given. -/
def releaseAll (bs : List BufferId) (s : State) : State := bs.foldl (fun t b => release b t) s

/-! ### Holds (R7) -/

/-- One hold more. -/
def addHold (b : BufferId) (s : State) : State := s.modBuffer b fun r => { r with holds := r.holds + 1 }

/-- One hold less; a HELD buffer without holds is released. -/
def dropHold (b : BufferId) (s : State) : State :=
  let t := s.modBuffer b fun r => { r with holds := r.holds - 1 }
  if (t.buffer b).state = .held ∧ (t.buffer b).holds = 0 then release b t else t

/-! ### Removal of entries (R64) and settling (R77 to R80) -/

/-- A buffer whose entry has left the list is judged by its hold count (R6, R64): HELD, or released. -/
def unlist (b : BufferId) (s : State) : State :=
  if (s.buffer b).state = .published then
    if (s.buffer b).holds = 0 then release b s else s.modBuffer b fun r => { r with state := .held }
  else s

/-- The buffers of removed entries judged in the order given. -/
def unlistAll (bs : List BufferId) (s : State) : State := bs.foldl (fun t b => unlist b t) s

/-- The list without the entries of the given buffers. -/
def without (list : List Entry) (bs : List BufferId) : List Entry :=
  list.filter fun e => !bs.contains e.buffer

/-- Entries, named by their buffers, leave the list of a stream and their buffers are judged in that order. -/
def removeEntries (st : StreamId) (bs : List BufferId) (s : State) : State :=
  unlistAll bs (s.modStream st fun x => { x with list := without x.list bs })

/-- The entries that settling removes under LATEST (R78): signalled, passed by every occupied slot, and with a newer
signalled entry in the list. -/
def settledLatest (occupied : SlotSet) : List Entry → List BufferId
  | [] => []
  | e :: rest =>
    if e.signalled && e.passed.covers occupied && rest.any Entry.signalled then
      e.buffer :: settledLatest occupied rest
    else settledLatest occupied rest

/-- The entries that settling removes under EVERY (R79): signalled and passed by every occupied slot, of which there is one. -/
def settledEvery (occupied : SlotSet) (list : List Entry) : List BufferId :=
  (list.filter fun e => e.signalled && occupied.nonempty && e.passed.covers occupied).map Entry.buffer

/-- The buffers of the entries that no occupied slot needs, oldest first (R78, R79). -/
def Stream.settled (x : Stream) : List BufferId :=
  match x.policy with
  | .latest => settledLatest x.occupied x.list
  | .every => settledEvery x.occupied x.list

/-- A stream is settled (R77 to R80). -/
def settle (st : StreamId) (s : State) : State := removeEntries st (s.stream st).settled s

/-! ### Choices the spec leaves open (log 11, log 15) -/

/-- A buffer put into a list in rising order of a rank. -/
def insertByRank (rank : BufferId → Nat) (b : BufferId) : List BufferId → List BufferId
  | [] => [b]
  | c :: rest => if rank b ≤ rank c then b :: c :: rest else c :: insertByRank rank b rest

/-- The buffers in rising order of a rank. -/
def orderByRank (rank : BufferId → Nat) : List BufferId → List BufferId
  | [] => []
  | b :: rest => insertByRank rank b (orderByRank rank rest)

/-- The buffers in an order that nothing constrains. -/
def someOrder (s : State) (bs : List BufferId) : List BufferId := orderByRank (Config.releaseRank s.choices) bs

/-- The next choice reads a fresh free value. -/
def chosen (s : State) : State := { s with choices := s.choices + 1 }

/-- The FILLING buffers bound to a stream. -/
def State.fillings (s : State) (st : StreamId) : List BufferId :=
  allBuffers.filter fun b => (s.buffer b).state == .filling && (s.buffer b).stream == some st

/-- Every FILLING buffer of a stream is released (R35 step 3, R147 step 2). -/
def releaseFillings (st : StreamId) (s : State) : State :=
  releaseAll (someOrder s (s.fillings st)) (chosen s)

/-- The buffers of a stream's unsignalled entries. -/
def Stream.unsignalled (x : Stream) : List BufferId :=
  (x.list.filter fun e => !e.signalled).map Entry.buffer

/-- Every unsignalled entry of a stream is removed and its buffer released (R35 step 4, R147 step 3, R149). -/
def removeUnsignalled (st : StreamId) (s : State) : State :=
  removeEntries st (someOrder s (s.stream st).unsignalled) (chosen s)

/-! ### Consumer slots (R101, steps 1 to 3; R148) -/

/-- A slot is cleared: out of every passed set, its hold dropped, its fields at the cleared values. Boundaries addressed to it
and not yet taken are discarded (R86; log 17). -/
def clearSlot (st : StreamId) (c : SlotId) (s : State) : State :=
  let marked := s.modStream st fun x =>
    { x with list := x.list.map fun e => { e with passed := e.passed.put c false } }
  let dropped := match ((s.stream st).slot c).current with
    | some b => dropHold b marked
    | none => marked
  let cleared := dropped.modStream st fun x => x.modSlot c fun _ => Slot.cleared
  { cleared with addressed := cleared.addressed.filter fun a => a != (st, c) }

/-! ### The drain completion test (R40) -/

/-- A DRAINING stream with no producer, no occupied slot and nothing bound. -/
def State.drained (s : State) (st : StreamId) : Bool :=
  (s.stream st).state == .draining && !(s.stream st).hasMember && s.outstanding st == 0

/-- The drain completion test, and the completion where it passes. -/
def drainTest (st : StreamId) (s : State) : State :=
  if s.drained st then
    let x := s.stream st
    (queueNoticeTo x.owner (.streamClosed st x.published x.flips x.dropped x.expired) s).modStream st
      fun _ => Stream.cleared
  else s

/-! ### Lease (R138, R139) -/

/-- The full lease interval in units of 100 µs. -/
def PortRecord.fullLease (r : PortRecord) : Nat := r.leaseInterval.toNat * Config.unitsPerLeaseUnit

/-- The lease of an ATTACHED port is set back to the full interval. -/
def renewLease (p : Port) (s : State) : State :=
  s.modPort p fun r => if r.state = .attached then { r with leaseRemaining := some r.fullLease } else r

/-! ### The first stage of a sweep (R145) -/

/-- The parked ACQUIRE of a stream is discarded where the port is its producer (R145 step 5, R51). -/
def discardParked (p : Port) (s : State) (st : StreamId) : State :=
  if (s.stream st).producer = some p ∧ (s.stream st).parked.isSome then endParked st s else s

/-- The first stage: the port LAPSING, its lease stopped, its queues, window and replay record cleared, its parked ACQUIREs
discarded. `detachTag` is the tag of the DETACH that begins the sweep. -/
def firstStage (p : Port) (detachTag : Option Byte) (s : State) : State :=
  allStreams.foldl (discardParked p) (s.modPort p fun r =>
    { r with state := .lapsing, leaseRemaining := none, responses := [], window := 0, replay := none, notices := [],
             lost := 0, sweep := some { next := .stream 0, detachTag := detachTag } })

end Sys2Proof.Machine
end

