-- ==== Sys2Proof/WellFormed.lean ====
section
/-!
DEFINITION. Which commands a master or the part can form at all. The numbered objects are in range by their types, so the
checks left are on the bytes: a payload is at most 32 bytes (R177), and the first byte of a BAD_TRANSACTION window is none
of the four transaction codes of Table 10-1 (R175).
-/

namespace Sys2Proof

/-- Table 10-1: the byte is a transaction code. -/
def isTransactionCode (b : Byte) : Bool := (transactionOf b).isSome

/-- The payload a request row carries, for the thirty request rows. -/
def Instr.payload? : Instr → Option (List Byte)
  | .attach _ _ d | .detach _ _ d | .renew _ _ d | .setNoticeMask _ _ d | .createPool _ _ d | .dissolvePool _ _ d
  | .claimPool _ _ d | .registerBuffer _ _ d | .retireBuffer _ _ d | .openStream _ _ d | .configureStream _ _ d
  | .closeStream _ _ d | .claimStream _ _ d | .joinProducer _ _ d | .leave _ _ d | .acquire _ _ d | .abandon _ _ d
  | .publish _ _ d | .signal _ _ d | .joinConsumer _ _ d | .retuneConsumer _ _ d | .ackStall _ _ d | .startTimer _ _ d
  | .stopTimer _ _ d | .claimTimer _ _ d | .queryDevice _ _ d | .queryPort _ _ d | .queryPool _ _ d | .queryStream _ _ d
  | .queryBuffer _ _ d => some d
  | .send _ _ | .status _ _ | .fetchResponse _ _ | .fetchNotice _ _ | .badTransaction _ _ _ | .qualifiedRisingEdge _
  | .qualifiedFall _ | .timerExpiry _ | .boundary _ _ | .acquireWaitExpiry _ | .signalExpiry _ _ | .leaseExpiry _
  | .streamStep _ _ | .sweepThirdStage _ | .sweepFourthStage _ | .deviceReset _ | .resetRelease | .recoveryEnd
  | .fallOfSelect _ _ | .powerUpEnd => none

/-- A request's payload fits a frame (R177, Table 10-4). -/
def Instr.payloadFits (i : Instr) : Bool :=
  match i.payload? with
  | some d => d.length ≤ Config.maxPayload
  | none => true

/-- The first byte of a BAD_TRANSACTION window is unknown (R175). -/
def Instr.firstByteUnknown : Instr → Bool
  | .badTransaction _ first _ => !isTransactionCode first
  | _ => true

/-- The command can occur. -/
def Instr.wellFormed (i : Instr) : Bool :=
  i.payloadFits && i.firstByteUnknown

end Sys2Proof
end

