-- ==== Sys2Proof/Machine/Link.lean ====
section
/-!
DEFINITION. The master port link and the Request Engine: windows of select (R175), the frame and its CRC (R177, R178), judging and
taking a frame (R155 to R168, R179), the records on the link (Table 10-7a, Table 10-8a), and the STATUS, FETCH_RESPONSE,
FETCH_NOTICE, BAD_TRANSACTION and FALL_OF_SELECT rows.
-/

namespace Sys2Proof.Machine

/-! ### Records on the link -/

/-- A list of bytes filled with zeros, or cut, to `n` bytes. -/
def padTo (n : Nat) (bs : List Byte) : List Byte := (bs ++ List.replicate n 0).take n

/-- A response record (Table 10-7a). -/
def Response.bytes (r : Response) : List Byte :=
  padTo Config.recordBytes ([r.tag, r.code, r.result.code] ++ r.data)

/-- The empty response record (R161): tag 0, code 0, result 0xFF, zero data. -/
def emptyResponseBytes : List Byte := padTo Config.recordBytes [0, 0, 0xFF]

/-- The role byte of MEMBER_LOST (Table 10-8a). -/
def LostRole.code : LostRole → Byte
  | .producer => 0
  | .consumer c => byte (c.val + 1)

/-- The fields of a notice after its kind byte (Table 10-8a). -/
def Notice.fields : Notice → List Byte
  | .flip st c b g h l q k => [byte st.val, byte c.val, byte b.val, g] ++ bytes32 h ++ bytes16 l ++ bytes16 q ++ [byte k]
  | .stall st c b g q r t => [byte st.val, byte c.val, byte b.val, g] ++ bytes16 q ++ [byte r, byte t]
  | .recycled st b g => [byte st.val, byte b.val, g]
  | .dropped st b g q => [byte st.val, byte b.val, g] ++ bytes16 q
  | .signalExpired st b g q => [byte st.val, byte b.val, g] ++ bytes16 q
  | .memberLost st p role n => [byte st.val, byte p.val, role.code, n]
  | .ownerLost st p n => [byte st.val, byte p.val, n]
  | .streamClosing st n => [byte st.val, byte n]
  | .streamClosed st a b c d => byte st.val :: (bytes16 a ++ bytes16 b ++ bytes16 c ++ bytes16 d)
  | .overflow n => [byte n]

/-- A notice record (Table 10-8a). -/
def Notice.bytes (n : Notice) : List Byte := padTo Config.recordBytes (byte n.kind :: n.fields)

/-- The record of kind NONE: all bytes 0. -/
def noneNoticeBytes : List Byte := padTo Config.recordBytes []

/-- The bytes of the response record a window presents (R161). -/
def Window.responseBytes (w : Window) : List Byte :=
  match w.response with
  | some r => r.bytes
  | none => emptyResponseBytes

/-- The bytes of the notice record a window presents (R125). -/
def Window.noticeBytes (w : Window) : List Byte :=
  match w.notice with
  | some n => n.bytes
  | none => noneNoticeBytes

/-- `n` bytes shifted out after the status byte: the record's, then 0xFF (R180). -/
def shiftRecord (record : List Byte) (n : Nat) : List Byte := (record ++ List.replicate n 0xFF).take n

/-! ### Windows of select (R175, R176) -/

/-- The fall of select: the port samples its status byte and fixes the records a fetch would present. A fall that comes too soon
after the last rise, or during reset or recovery, opens a window in which nothing counts (R175, R184; log 9). A window that was
still open ended without a whole byte: it was void (R175; log 8). -/
def fallOfSelect (p : Port) (tooSoon : Bool) (s : State) : State :=
  s.modPort p fun r =>
    { r with select :=
        if tooSoon = false ∧ s.phase = .serving then
          .low { status := r.statusByte, response := r.responses.head?, notice := r.notices.head? }
        else .void }

/-- The window a transaction row ends: the open one, or one opened at once (log 7). -/
def openWindow (p : Port) (s : State) : State :=
  if (s.port p).select = .high then fallOfSelect p false s else s

/-- A transaction ends at the rise of select: `out` is what the part shifted out and `effect` what the transaction does. In a void
window nothing is judged, recorded, counted, completed or renewed (R175, R183, R184). -/
def transaction (p : Port) (out : Window → List Byte) (effect : Window → State → State) (s : State) : State :=
  let t := openWindow p s
  match (t.port p).select with
  | .low w => (effect w t).modPort p fun r => { r with select := .high, shifted := some (out w) }
  | _ => t.modPort p fun r => { r with select := .high, shifted := none }

/-- What a STATUS, SEND or unknown window shifts out: the status byte, then 0xFF (Table 10-1). -/
def statusThen (n : Nat) (w : Window) : List Byte := w.status :: List.replicate n 0xFF

/-! ### The frame (R177, R178) -/

/-- One shift of the CRC register: left, with the polynomial 0x07 combined when a 1 leaves bit 7. -/
def crcShift (v : Byte) : Byte := if v.getLsbD 7 then (v <<< 1) ^^^ 0x07 else v <<< 1

/-- One byte into the CRC: exclusive-or, then eight shifts. -/
def crcByte (v b : Byte) : Byte :=
  crcShift (crcShift (crcShift (crcShift (crcShift (crcShift (crcShift (crcShift (v ^^^ b))))))))

/-- The CRC-8 of R178, from the initial value 0xFF. -/
def crc8 (bs : List Byte) : Byte := bs.foldl crcByte 0xFF

/-- The CRC byte of a frame: over its length, tag, code and payload (Table 10-4). -/
def frameCrc (tag code : Byte) (payload : List Byte) : Byte :=
  crc8 (byte payload.length :: tag :: code :: payload)

/-- The bytes of a frame after the transaction code (Table 10-4). -/
def frameBytes (tag code : Byte) (payload : List Byte) : List Byte :=
  byte payload.length :: tag :: code :: (payload ++ [frameCrc tag code payload])

/-- What the Master Port Interface makes of the bytes of a SEND window (R177). -/
inductive Judged where
  | lengthError
  | truncated
  | crcError
  | wellFormed (tag code : Byte) (payload : List Byte) (check : Byte)
  deriving DecidableEq, Repr

/-- The judgement of R177, in its order. -/
def judgeBytes (bytes : List Byte) : Judged :=
  match bytes with
  | [] => .truncated
  | len :: rest =>
    if Config.maxPayload < len.toNat then .lengthError
    else match rest with
      | tag :: code :: body =>
        if body.length ≤ len.toNat then .truncated
        else
          let payload := body.take len.toNat
          let check := body.getD len.toNat 0
          if check = crc8 (len :: tag :: code :: payload) then .wellFormed tag code payload check else .crcError
      | _ => .truncated

/-- A frame result that only the link gives is recorded and counted (R177, R179). -/
def linkError (p : Port) (result : FrameResult) (s : State) : State :=
  s.modPort p fun r => { r with lastFrame := result, frameErrors := r.frameErrors + 1 }

/-! ### The Request Engine (R155 to R168) -/

/-- The request code bytes (Table 10-5). -/
def codeOf : RequestName → Byte
  | .attach => 0x10
  | .detach => 0x11
  | .renew => 0x12
  | .setNoticeMask => 0x13
  | .createPool => 0x20
  | .dissolvePool => 0x21
  | .claimPool => 0x22
  | .registerBuffer => 0x23
  | .retireBuffer => 0x24
  | .openStream => 0x30
  | .configureStream => 0x31
  | .closeStream => 0x32
  | .claimStream => 0x33
  | .joinProducer => 0x34
  | .leave => 0x35
  | .acquire => 0x40
  | .abandon => 0x41
  | .publish => 0x42
  | .signal => 0x43
  | .joinConsumer => 0x50
  | .retuneConsumer => 0x51
  | .ackStall => 0x52
  | .startTimer => 0x60
  | .stopTimer => 0x61
  | .claimTimer => 0x62
  | .queryDevice => 0x70
  | .queryPort => 0x71
  | .queryPool => 0x72
  | .queryStream => 0x73
  | .queryBuffer => 0x74

/-- The thirty requests of the catalogue, in the order of Table 9-2. -/
def allRequests : List RequestName :=
  [.attach, .detach, .renew, .setNoticeMask, .createPool, .dissolvePool, .claimPool, .registerBuffer, .retireBuffer,
   .openStream, .configureStream, .closeStream, .claimStream, .joinProducer, .leave, .acquire, .abandon, .publish, .signal,
   .joinConsumer, .retuneConsumer, .ackStall, .startTimer, .stopTimer, .claimTimer, .queryDevice, .queryPort, .queryPool,
   .queryStream, .queryBuffer]

/-- The request that a code byte names, if it names one. -/
def requestOfCode (code : Byte) : Option RequestName := allRequests.find? fun r => codeOf r == code

/-- A frame matches a replay record (R155): a tag that is not 0, and tag, code and CRC byte as recorded. -/
def Replay.matchesFrame (m : Replay) (tag code check : Byte) : Bool :=
  tag != 0 && tag == m.tag && code == m.code && check == m.check

/-- The replay record that a frame matches on an ATTACHED port. -/
def PortRecord.replayMatch (r : PortRecord) (tag code check : Byte) : Option Replay :=
  match r.replay with
  | some m => if r.state = .attached ∧ m.matchesFrame tag code check then some m else none
  | none => none

/-- The judgement of a well-formed frame (R155), in its order, against the port as it stands at the rise of select. R142 speaks of any frame
as NOT_ATTACHED once the sweep that began in its window has ended; that ATTACH and QUERY_DEVICE are nevertheless taken then, as R134 and
R155 take them from a DETACHED port, is the model's choice (log 28). -/
def PortRecord.judge (r : PortRecord) (tag code check : Byte) : FrameResult :=
  if r.state = .lapsing then .resetting
  else if r.state = .detached ∧ code ≠ codeOf .attach ∧ code ≠ codeOf .queryDevice then .notAttached
  else
    match r.replayMatch tag code check with
    | some m =>
      if m.copy.isNone then .duplicateDropped
      else if Config.requestWindow ≤ r.window then .windowFull
      else .replayed
    | none => if Config.requestWindow ≤ r.window then .windowFull else .taken

/-- A frame taken by this port becomes its replay record (R163): a nonzero tag, an ATTACHED port, a code other than ATTACH. -/
def PortRecord.records (r : PortRecord) (tag code : Byte) : Bool :=
  r.state == .attached && tag != 0 && code != codeOf .attach

/-- The taking of a frame, before its request is executed: the frame result, the counter, the window place and the replay
record (R155, R157, R163, R179). -/
def takeFrame (tag code check : Byte) (r : PortRecord) : PortRecord :=
  { r with
    lastFrame := .taken
    framesTaken := r.framesTaken + 1
    window := r.window + 1
    replay := if r.records tag code then some { tag := tag, code := code, check := check, copy := none, parkedOn := none }
      else r.replay }

/-- The completion of a request within the event that takes it (R159, R163): its response joins the queue, and its copy the
replay record if the frame became it. -/
def completeRequest (p : Port) (recorded : Bool) (r : Response) (s : State) : State :=
  (queueResponse p r s).modPort p fun q =>
    { q with replay := if recorded then q.replay.map fun m => { m with copy := some r } else q.replay }

/-- A taken request is executed within the event (R156). -/
def executeRequest (p : Port) (tag code check : Byte) (body : State → Served) (s : State) : State :=
  match body (s.modPort p (takeFrame tag code check)) with
  | (t, some reply) =>
    completeRequest p ((s.port p).records tag code) ⟨tag, code, reply.result, reply.data⟩ t
  | (t, none) => t

/-- A replayed frame (R164): the stored response is queued again. -/
def replayFrame (p : Port) (tag code check : Byte) (s : State) : State :=
  s.modPort p fun r =>
    { r with
      lastFrame := .replayed
      framesTaken := r.framesTaken + 1
      window := r.window + 1
      responses := match (r.replayMatch tag code check).bind Replay.copy with
        | some c => r.responses ++ [c]
        | none => r.responses }

/-- A frame result recorded without any counter (R179). -/
def recordResult (p : Port) (result : FrameResult) (s : State) : State :=
  s.modPort p fun r => { r with lastFrame := result }

/-- A well-formed frame at the rise of select: judged, executed if taken, and the lease renewed where R139 says so. -/
def engine (p : Port) (tag code check : Byte) (body : State → Served) (s : State) : State :=
  match (s.port p).judge tag code check with
  | .taken => renewLease p (executeRequest p tag code check body s)
  | .replayed => renewLease p (replayFrame p tag code check s)
  | .duplicateDropped => renewLease p (recordResult p .duplicateDropped s)
  | .windowFull => renewLease p (recordResult p .windowFull s)
  | result => recordResult p result s

/-- A request row: a SEND transaction whose frame carries the request (R177, R155). A payload above 32 bytes is no frame: the
link judges its length byte LENGTH_ERROR. -/
def sendRequest (p : Port) (tag : Byte) (name : RequestName) (payload : List Byte) (body : State → Served)
    (s : State) : State :=
  transaction p (statusThen (payload.length + 4))
    (fun _ t =>
      if Config.maxPayload < payload.length then linkError p .lengthError t
      else engine p tag (codeOf name) (frameCrc tag (codeOf name) payload) body t) s

/-! ### The rows of the link -/

/-- A STATUS window (R180, R139): complete, since its first byte has been clocked; it renews the lease of an ATTACHED port. -/
def statusWindow (p : Port) (more : Nat) (s : State) : State :=
  transaction p (statusThen more) (fun _ t => renewLease p t) s

/-- The STATUS row. -/
def execStatus (p : Port) (more : Nat) (s : State) : Host.Outcome State Fault Refusal := .next (statusWindow p more s)

/-- The head is removed if it is the record the window presented (R161). -/
def removeResponse (p : Port) (w : Window) (s : State) : State :=
  s.modPort p fun r =>
    match w.response, r.responses with
    | some x, y :: rest => if x = y then { r with responses := rest, window := r.window - 1 } else r
    | _, _ => r

/-- A FETCH_RESPONSE window (R161, R180): complete once the 24 record bytes have been clocked, partial before. -/
def fetchResponseWindow (p : Port) (clocked : Nat) (s : State) : State :=
  transaction p (fun w => w.status :: shiftRecord w.responseBytes clocked)
    (fun w t => if clocked < Config.recordBytes then t else renewLease p (removeResponse p w t)) s

/-- The FETCH_RESPONSE row. -/
def execFetchResponse (p : Port) (clocked : Nat) (s : State) : Host.Outcome State Fault Refusal :=
  .next (fetchResponseWindow p clocked s)

/-- The head is removed if it is the record the window presented, and OVERFLOW reports a nonzero lost count (R126, R129). -/
def removeNotice (p : Port) (w : Window) (s : State) : State :=
  s.modPort p fun r =>
    match w.notice, r.notices with
    | some x, y :: rest =>
      if x = y then
        if r.lost = 0 then { r with notices := rest }
        else { r with notices := rest ++ [.overflow r.lost], lost := 0 }
      else r
    | _, _ => r

/-- A FETCH_NOTICE window (R125 to R129, R180). -/
def fetchNoticeWindow (p : Port) (clocked : Nat) (s : State) : State :=
  transaction p (fun w => w.status :: shiftRecord w.noticeBytes clocked)
    (fun w t => if clocked < Config.recordBytes then t else renewLease p (removeNotice p w t)) s

/-- The FETCH_NOTICE row. -/
def execFetchNotice (p : Port) (clocked : Nat) (s : State) : Host.Outcome State Fault Refusal :=
  .next (fetchNoticeWindow p clocked s)

/-- A window whose first byte is unknown (R175, R179): recorded and counted, the rest ignored, and no lease renewed. -/
def unknownWindow (p : Port) (more : Nat) (s : State) : State :=
  transaction p (statusThen more) (fun _ t => linkError p .badTransaction t) s

/-- FALL_OF_SELECT (R175, R176). -/
def execFallOfSelect (p : Port) (tooSoon : Bool) (s : State) : Host.Outcome State Fault Refusal :=
  .next (fallOfSelect p tooSoon s)

end Sys2Proof.Machine
end

