-- ==== Sys2Proof/Machine/Acquisition.lean ====
section
/-!
DEFINITION. ACQUIRE, ABANDON and the expiry of an acquire wait (spec/03_acquisition_and_the_pool_arbiter.md).
-/

namespace Sys2Proof.Machine

/-- The ACQUIRE parks (R47): the parked acquire field, the wait queue's tail, the deadline. A replay record that this frame has
become refers to the parked request (R163; log 18). -/
def park (p : Port) (tag : Byte) (st : StreamId) (wait : Nat) (s : State) : State :=
  ((s.modStream st fun x => { x with parked := some { tag := tag, remaining := wait * Config.unitsPerMs } }).modPool
    (s.stream st).pool fun k => { k with wait := k.wait ++ [st] }).modPort p
      fun r =>
        { r with
          replay := if r.records tag acquireCode then r.replay.map fun m => { m with parkedOn := some st }
            else r.replay }

/-- ACQUIRE (R45 to R47). -/
def acquireRequest (p : Port) (tag : Byte) (payload : List Byte) (s : State) : Served :=
  match payload with
  | [n, wait] =>
    match index? 16 n with
    | none => refuse .range s
    | some st =>
      let x := s.stream st
      if x.state = .closed then refuse .noSuch s
      else if x.state = .draining then refuse .closed s
      else if x.producer ≠ some p then refuse .denied s
      else if x.quota ≤ s.outstanding st then refuse .quota s
      else match x.parked with
        | some k => (s, some ⟨.alreadyWaiting, [k.tag]⟩)
        | none =>
          match (s.pool x.pool).free with
          | b :: _ =>
            let t := grant x.pool st b s
            okWith (grantData b (t.buffer b)) t
          | [] => if wait = 0 then refuse .exhausted s else (park p tag st wait.toNat s, none)
  | _ => refuse .unknown s

/-- The producer of the stream a buffer is bound to. -/
def State.producerOf (s : State) (b : BufferId) : Option Port :=
  match (s.buffer b).stream with
  | some st => (s.stream st).producer
  | none => none

/-- ABANDON (R59, R60). -/
def abandonRequest (p : Port) (payload : List Byte) (s : State) : Served :=
  match payload with
  | [i, g] =>
    match index? 64 i with
    | none => refuse .range s
    | some b =>
      if (s.buffer b).generation ≠ g then refuse .stale s
      else if (s.buffer b).state ≠ .filling then refuse .badState s
      else match (s.buffer b).stream with
        | none => refuse .denied s
        | some st =>
          if (s.stream st).producer ≠ some p then refuse .denied s
          else okWith [] (drainTest st (release b s))
  | _ => refuse .unknown s

/-- The ACQUIRE row. -/
def execAcquire (p : Port) (tag : Byte) (payload : List Byte) (s : State) : Host.Outcome State Fault Refusal :=
  .next (sendRequest p tag .acquire payload (acquireRequest p tag payload) s)

/-- The ABANDON row. -/
def execAbandon (p : Port) (tag : Byte) (payload : List Byte) (s : State) : Host.Outcome State Fault Refusal :=
  .next (sendRequest p tag .abandon payload (abandonRequest p payload) s)

/-- The ACQUIRE_WAIT_EXPIRY row (R49): TIMEOUT for the parked ACQUIRE of the stream whose wait has elapsed. Where none is parked the
deadline has been cancelled, and where some of the wait is left nothing expires yet (R47, R56; log 4, log 6). -/
def execAcquireWaitExpiry (st : StreamId) (s : State) : Host.Outcome State Fault Refusal :=
  .next (if (s.stream st).parked.map Parked.remaining = some 0 then completeParked st ⟨.timeout, []⟩ s else s)

end Sys2Proof.Machine
end

