-- ==== Sys2Proof/Machine/Pools.lean ====
section
/-!
DEFINITION. The requests of spec/01_buffers_and_pools.md: CREATE_POOL, DISSOLVE_POOL, CLAIM_POOL, REGISTER_BUFFER, RETIRE_BUFFER.
A payload of a length the catalogue does not allow is refused UNKNOWN before every other check (R168).
-/

namespace Sys2Proof.Machine

/-- CREATE_POOL (R13). -/
def createPoolRequest (p : Port) (payload : List Byte) (s : State) : Served :=
  match payload with
  | [] =>
    match allPools.find? fun k => (s.pool k).state == .unused with
    | none => refuse .noSlot s
    | some k =>
      okWith [byte k.val]
        (s.modPool k fun _ => { state := .active, owner := some p, free := [], registered := 0, wait := [] })
  | _ => refuse .unknown s

/-- Some stream that is not CLOSED names the pool (R14, check 4; R21). -/
def State.poolNamed (s : State) (k : PoolId) : Bool :=
  s.streams.toList.any fun x => x.state != .closed && x.pool == k

/-- The records of a list become VACANT (R14). -/
def unregisterAll (bs : List BufferId) (s : State) : State :=
  bs.foldl (fun t b => t.modBuffer b Buffer.unregistered) s

/-- DISSOLVE_POOL (R14). -/
def dissolvePoolRequest (p : Port) (payload : List Byte) (s : State) : Served :=
  match payload with
  | [n] =>
    match index? 4 n with
    | none => refuse .range s
    | some k =>
      if (s.pool k).state = .unused then refuse .noSuch s
      else if (s.pool k).owner ≠ some p then refuse .denied s
      else if s.poolNamed k then refuse .badState s
      else
        okWith [] ((unregisterAll (s.pool k).free s).modPool k
          fun q => { q with state := .unused, owner := none, free := [], registered := 0 })
  | _ => refuse .unknown s

/-- CLAIM_POOL (R15). -/
def claimPoolRequest (p : Port) (payload : List Byte) (s : State) : Served :=
  match payload with
  | [n] =>
    match index? 4 n with
    | none => refuse .range s
    | some k =>
      if (s.pool k).state = .unused then refuse .noSuch s
      else match (s.pool k).owner with
        | none => okWith [] (s.modPool k fun q => { q with owner := some p })
        | some o => if o = p then okWith [] s else refuse .denied s
  | _ => refuse .unknown s

/-- The lowest-numbered VACANT record (R17). -/
def State.vacantBuffer (s : State) : Option BufferId :=
  allBuffers.find? fun b => (s.buffer b).state == .vacant

/-- REGISTER_BUFFER (R17). The reply is fixed before the arbiter runs; grant responses are queued before it (R53). -/
def registerBufferRequest (p : Port) (payload : List Byte) (s : State) : Served :=
  match payload with
  | [n, h3, h2, h1, h0, l1, l0] =>
    match index? 4 n with
    | none => refuse .range s
    | some k =>
      if (s.pool k).state = .unused then refuse .noSuch s
      else if (s.pool k).owner ≠ some p then refuse .denied s
      else match s.vacantBuffer with
        | none => refuse .noSlot s
        | some b =>
          okWith [byte b.val, (s.buffer b).generation]
            (runArbiter k ((s.modBuffer b fun r =>
              { r with state := .free, pool := some k, handle := be32 h3 h2 h1 h0, layout := be16 l1 l0, stream := none,
                       holds := 0, retiring := false }).modPool k
                fun q => { q with free := q.free ++ [b], registered := q.registered + 1 }))
  | _ => refuse .unknown s

/-- The owner of the pool a record belongs to. -/
def State.poolOwnerOf (s : State) (b : BufferId) : Option Port :=
  match (s.buffer b).pool with
  | some k => (s.pool k).owner
  | none => none

/-- A FREE record leaves its pool's free list, from whatever place it holds, and becomes VACANT (R18). -/
def retireFree (b : BufferId) (s : State) : State :=
  match (s.buffer b).pool with
  | some k =>
    (s.modBuffer b Buffer.unregistered).modPool k
      fun q => { q with free := q.free.erase b, registered := q.registered - 1 }
  | none => s.modBuffer b Buffer.unregistered

/-- RETIRE_BUFFER (R18, R19): disposition 0 VACANT, 1 RETIRING. -/
def retireBufferRequest (p : Port) (payload : List Byte) (s : State) : Served :=
  match payload with
  | [i, g] =>
    match index? 64 i with
    | none => refuse .range s
    | some b =>
      if (s.buffer b).state = .vacant then refuse .badState s
      else if s.poolOwnerOf b ≠ some p then refuse .denied s
      else if (s.buffer b).generation ≠ g then refuse .stale s
      else if (s.buffer b).state = .free then okWith [0] (retireFree b s)
      else okWith [1] (s.modBuffer b fun r => { r with retiring := true })
  | _ => refuse .unknown s

/-- The CREATE_POOL row. -/
def execCreatePool (p : Port) (tag : Byte) (payload : List Byte) (s : State) : Host.Outcome State Fault Refusal :=
  .next (sendRequest p tag .createPool payload (createPoolRequest p payload) s)

/-- The DISSOLVE_POOL row. -/
def execDissolvePool (p : Port) (tag : Byte) (payload : List Byte) (s : State) : Host.Outcome State Fault Refusal :=
  .next (sendRequest p tag .dissolvePool payload (dissolvePoolRequest p payload) s)

/-- The CLAIM_POOL row. -/
def execClaimPool (p : Port) (tag : Byte) (payload : List Byte) (s : State) : Host.Outcome State Fault Refusal :=
  .next (sendRequest p tag .claimPool payload (claimPoolRequest p payload) s)

/-- The REGISTER_BUFFER row. -/
def execRegisterBuffer (p : Port) (tag : Byte) (payload : List Byte) (s : State) : Host.Outcome State Fault Refusal :=
  .next (sendRequest p tag .registerBuffer payload (registerBufferRequest p payload) s)

/-- The RETIRE_BUFFER row. -/
def execRetireBuffer (p : Port) (tag : Byte) (payload : List Byte) (s : State) : Host.Outcome State Fault Refusal :=
  .next (sendRequest p tag .retireBuffer payload (retireBufferRequest p payload) s)

end Sys2Proof.Machine
end

