-- ==== Sys2Proof/Machine/Presentation.lean ====
section
/-!
DEFINITION. Consumer slots and boundaries taken at them (spec/06_presentation.md): JOIN_CONSUMER, RETUNE_CONSUMER, ACK_STALL, BOUNDARY.
-/

namespace Sys2Proof.Machine

/-- A slot just joined (R98). -/
def joinedSlot (p : Port) (source : Source) (threshold : Nat) : Slot :=
  { occupied := true, port := some p, source := source, current := none, currentSequence := none, repeats := 0,
    threshold := threshold, stalled := false }

/-- JOIN_CONSUMER (R97, R98). -/
def joinConsumerRequest (p : Port) (payload : List Byte) (s : State) : Served :=
  match payload with
  | [n, f, threshold] =>
    match index? 16 n with
    | none => refuse .range s
    | some st =>
      let x := s.stream st
      if x.state = .closed then refuse .noSuch s
      else match source? f with
        | none => refuse .range s
        | some source =>
          if x.state = .draining then refuse .badState s
          else if admits x.consumerMask p = false then refuse .denied s
          else if x.isMember p then refuse .badState s
          else match x.freeSlot with
            | none => refuse .noSlot s
            | some c =>
              okWith [byte c.val, x.policy.code]
                (s.modStream st fun y => y.modSlot c fun _ => joinedSlot p source threshold.toNat)
  | _ => refuse .unknown s

/-- RETUNE_CONSUMER's effect (R100): a change of source discards the boundaries addressed to the slot and not yet taken (R86). -/
def retune (st : StreamId) (c : SlotId) (source : Source) (threshold : Nat) (s : State) : State :=
  let moved := ((s.stream st).slot c).source ≠ source
  let t := s.modStream st fun x => x.modSlot c fun k => { k with source := source, threshold := threshold }
  if moved then { t with addressed := t.addressed.filter fun a => a != (st, c) } else t

/-- RETUNE_CONSUMER (R100). -/
def retuneConsumerRequest (p : Port) (payload : List Byte) (s : State) : Served :=
  match payload with
  | [n, f, threshold] =>
    match index? 16 n with
    | none => refuse .range s
    | some st =>
      if (s.stream st).state = .closed then refuse .noSuch s
      else match source? f with
        | none => refuse .range s
        | some source =>
          match (s.stream st).slotOf p with
          | none => refuse .denied s
          | some c => okWith [] (retune st c source threshold.toNat s)
  | _ => refuse .unknown s

/-- ACK_STALL (R112). -/
def ackStallRequest (p : Port) (payload : List Byte) (s : State) : Served :=
  match payload with
  | [n] =>
    match index? 16 n with
    | none => refuse .range s
    | some st =>
      if (s.stream st).state = .closed then refuse .noSuch s
      else match (s.stream st).slotOf p with
        | none => refuse .denied s
        | some c =>
          let k := (s.stream st).slot c
          okWith [byte k.repeats, if k.stalled then 1 else 0]
            (s.modStream st fun x => x.modSlot c fun j => { j with stalled := false })
  | _ => refuse .unknown s

/-! ### A boundary at a slot (R103 to R114) -/

/-- The slot's candidate: under LATEST the newest signalled entry it has not passed (R104), under EVERY the oldest entry it has
not passed, provided that entry is signalled (R105). -/
def candidate (policy : Policy) (c : SlotId) (list : List Entry) : Option Entry :=
  match policy with
  | .latest => list.reverse.find? fun e => e.signalled && !e.passed.has c
  | .every =>
    match list.find? fun e => !e.passed.has c with
    | some e => if e.signalled then some e else none
    | none => none

/-- The marks of a flip (R106): the slot passes every entry up to and including the one of buffer `b`, which is shown. -/
def passUpTo (c : SlotId) (b : BufferId) : List Entry → List Entry
  | [] => []
  | e :: rest =>
    if e.buffer = b then { e with passed := e.passed.put c true, shown := true } :: rest
    else { e with passed := e.passed.put c true } :: passUpTo c b rest

/-- The skipped count of a flip (R106): the entries before the one of buffer `b` that the slot had not passed. -/
def skipped (c : SlotId) (b : BufferId) : List Entry → Nat
  | [] => 0
  | e :: rest => if e.buffer = b then 0 else (if e.passed.has c then 0 else 1) + skipped c b rest

/-- The old hold of a slot is dropped, if it had one (R107, step 2). -/
def dropOldHold (old : Option BufferId) (s : State) : State :=
  match old with
  | some b => dropHold b s
  | none => s

/-- A flip of slot `c` to entry `e` (R106 to R108). -/
def flip (st : StreamId) (c : SlotId) (e : Entry) (s : State) : State :=
  let x := s.stream st
  let marked := s.modStream st fun y => { y with list := passUpTo c e.buffer y.list }
  let held := dropOldHold (x.slot c).current (addHold e.buffer marked)
  let moved := held.modStream st fun y =>
    { y.modSlot c (fun k =>
        { k with current := some e.buffer, currentSequence := some e.sequence, repeats := 0 }) with flips := y.flips + 1 }
  let r := moved.buffer e.buffer
  settle st (queueNoticeTo (x.slot c).port
    (.flip st c e.buffer r.generation r.handle r.layout e.sequence (skipped c e.buffer x.list)) moved)

/-- The stall test (R110): whether the status of a slot becomes set. -/
def stalls (k : Slot) : Bool := k.threshold != 0 && decide (k.threshold ≤ k.repeats) && !k.stalled

/-- A boundary without a flip at a slot with current buffer `b` (R109 to R111). -/
def repeatFrame (st : StreamId) (c : SlotId) (b : BufferId) (s : State) : State :=
  let t := s.modStream st fun x => x.modSlot c fun k => { k with repeats := min Config.saturation (k.repeats + 1) }
  let x := t.stream st
  let k := x.slot c
  if x.state = .live ∧ stalls k then
    queueNoticeTo k.port
      (.stall st c b (t.buffer b).generation (k.currentSequence.getD 0) k.repeats k.threshold)
      (t.modStream st fun y => y.modSlot c fun j => { j with stalled := true })
  else t

/-- A boundary taken at a slot (R103, Table 6-2). -/
def takeBoundary (st : StreamId) (c : SlotId) (s : State) : State :=
  let x := s.stream st
  if (x.slot c).occupied then
    match x.state with
    | .closed | .draining => s
    | .vacant | .live =>
      match candidate x.policy c x.list with
      | some e => flip st c e s
      | none =>
        match (x.slot c).current with
        | some b => repeatFrame st c b s
        | none => s
  else s

/-- The JOIN_CONSUMER row. -/
def execJoinConsumer (p : Port) (tag : Byte) (payload : List Byte) (s : State) : Host.Outcome State Fault Refusal :=
  .next (sendRequest p tag .joinConsumer payload (joinConsumerRequest p payload) s)

/-- The RETUNE_CONSUMER row. -/
def execRetuneConsumer (p : Port) (tag : Byte) (payload : List Byte) (s : State) : Host.Outcome State Fault Refusal :=
  .next (sendRequest p tag .retuneConsumer payload (retuneConsumerRequest p payload) s)

/-- The ACK_STALL row. -/
def execAckStall (p : Port) (tag : Byte) (payload : List Byte) (s : State) : Host.Outcome State Fault Refusal :=
  .next (sendRequest p tag .ackStall payload (ackStallRequest p payload) s)

/-- The BOUNDARY row (R103): the oldest boundary addressed to the slot is taken. Where none is, the boundary has been discarded (R86)
or never addressed, and nothing happens (log 17). -/
def execBoundary (st : StreamId) (c : SlotId) (s : State) : Host.Outcome State Fault Refusal :=
  .next (if s.addressed.contains (st, c) then
    takeBoundary st c { s with addressed := s.addressed.erase (st, c) } else s)

end Sys2Proof.Machine
end

