-- ==== Sys2Proof/Machine/Publication.lean ====
section
/-!
DEFINITION. PUBLISH, SIGNAL and the expiry of a signal deadline (spec/04_publication_and_the_pending_list.md).
-/

namespace Sys2Proof.Machine

/-- The entry that PUBLISH creates (R63, Table 4-1; R74). -/
def newEntry (b : BufferId) (signalled : Bool) (x : Stream) : Entry :=
  { buffer := b
    sequence := x.nextSequence
    signalled := signalled
    deadline := if signalled = false ∧ x.signalLimit ≠ 0 then some (x.signalLimit * Config.unitsPerMs) else none
    passed := SlotSet.empty
    shown := false }

/-- The append of R67, steps 1 to 5. -/
def append (st : StreamId) (b : BufferId) (signalled : Bool) (s : State) : State :=
  settle st ((s.modStream st fun x =>
    { x with list := x.list ++ [newEntry b signalled x], nextSequence := x.nextSequence + 1, published := x.published + 1 }).modBuffer
      b fun r => { r with state := .published })

/-- The oldest signalled entry of a list. -/
def oldestSignalled (list : List Entry) : Option Entry := list.find? Entry.signalled

/-- Full-list handling under LATEST (R68, steps 1 to 4): the entry is dropped and counted, DROPPED tells the producer of a frame never
shown, and the buffer is judged after it. -/
def dropEntry (st : StreamId) (e : Entry) (s : State) : State :=
  let a := s.modStream st fun x => { x with list := without x.list [e.buffer], dropped := x.dropped + 1 }
  let b := if e.shown then a
    else queueNoticeTo (a.stream st).producer (.dropped st e.buffer (a.buffer e.buffer).generation e.sequence) a
  unlist e.buffer b

/-- The list is full (R68). -/
def Stream.full (x : Stream) : Bool := decide (x.depth ≤ x.list.length)

/-- A PUBLISH that passes checks 1 to 5 of R65: appended into room (R67), appended after a drop (R68), or refused FULL (R69). No
result is FULL. -/
def publishInto (st : StreamId) (b : BufferId) (signalled : Bool) (s : State) : Option State :=
  let x := s.stream st
  if x.full then
    match x.policy, oldestSignalled x.list with
    | .latest, some e => some (append st b signalled (dropEntry st e s))
    | _, _ => none
  else some (append st b signalled s)

/-- PUBLISH (R65 to R71). -/
def publishRequest (p : Port) (payload : List Byte) (s : State) : Served :=
  match payload with
  | [i, g, f] =>
    match index? 64 i, flag? f with
    | some b, some signalled =>
      if (s.buffer b).generation ≠ g then refuse .stale s
      else if (s.buffer b).state ≠ .filling then refuse .badState s
      else match (s.buffer b).stream with
        | none => refuse .denied s
        | some st =>
          if (s.stream st).producer ≠ some p then refuse .denied s
          else if (s.stream st).state = .draining then refuse .closed (drainTest st (release b s))
          else match publishInto st b signalled s with
            | none => refuse .full s
            | some t => okWith (bytes16 (s.stream st).nextSequence ++ [byte (t.stream st).list.length]) t
    | _, _ => refuse .range s
  | _ => refuse .unknown s

/-- The entry of buffer `b` signalled, its deadline cancelled (R73, steps 1 and 2). -/
def markSignalled (b : BufferId) (list : List Entry) : List Entry :=
  list.map fun e => if e.buffer = b then { e with signalled := true, deadline := none } else e

/-- SIGNAL (R72, R73). -/
def signalRequest (p : Port) (payload : List Byte) (s : State) : Served :=
  match payload with
  | [i, g] =>
    match index? 64 i with
    | none => refuse .range s
    | some b =>
      if (s.buffer b).generation ≠ g then refuse .stale s
      else if (s.buffer b).state ≠ .published then refuse .badState s
      else match (s.buffer b).stream with
        | none => refuse .denied s
        | some st =>
          if (s.stream st).signallingPort ≠ some p then refuse .denied s
          else match entryOf (s.stream st).list b with
            | none => refuse .badState s
            | some e =>
              if e.signalled then refuse .badState s
              else okWith (bytes16 e.sequence)
                (settle st (s.modStream st fun x => { x with list := markSignalled b x.list }))
  | _ => refuse .unknown s

/-- SIGNAL_EXPIRED to the producer, and to the configured signaller if it is another port (R75, step 3). -/
def noticeExpired (st : StreamId) (n : Notice) (s : State) : State :=
  let x := s.stream st
  let t := queueNoticeTo x.producer n s
  if x.signaller = x.producer then t else queueNoticeTo x.signaller n t

/-- The expiry of an entry's signal deadline (R75). -/
def expireEntry (st : StreamId) (e : Entry) (s : State) : State :=
  let a := s.modStream st fun x => { x with list := without x.list [e.buffer], expired := x.expired + 1 }
  settle st (unlist e.buffer
    (noticeExpired st (.signalExpired st e.buffer (a.buffer e.buffer).generation e.sequence) a))

/-- The PUBLISH row. -/
def execPublish (p : Port) (tag : Byte) (payload : List Byte) (s : State) : Host.Outcome State Fault Refusal :=
  .next (sendRequest p tag .publish payload (publishRequest p payload) s)

/-- The SIGNAL row. -/
def execSignal (p : Port) (tag : Byte) (payload : List Byte) (s : State) : Host.Outcome State Fault Refusal :=
  .next (sendRequest p tag .signal payload (signalRequest p payload) s)

/-- The SIGNAL_EXPIRY row (R75). Where the stream lists no entry of the buffer, or one that is signalled or has no deadline, the
deadline has been cancelled and nothing expires (R64, R73, R76); before the deadline nothing expires yet (log 4, log 6). -/
def execSignalExpiry (st : StreamId) (b : BufferId) (s : State) : Host.Outcome State Fault Refusal :=
  .next (match entryOf (s.stream st).list b with
    | some e => if e.signalled = false ∧ e.deadline = some 0 then expireEntry st e s else s
    | none => s)

end Sys2Proof.Machine
end

