-- ==== Sys2Proof/Machine/Queries.lean ====
section
/-!
DEFINITION. The five queries (spec/09_requests_and_responses.md 9.10) and the layout of their data (Table 10-7b). Bits of a flags byte
that the table gives no meaning read a free value (log 15).
-/

namespace Sys2Proof.Machine

/-- A remaining time in whole milliseconds, rounded down. -/
def wholeMs (units : Nat) : Nat := units / Config.unitsPerMs

/-- The two bytes of a count. -/
def count16 (n : Nat) : List Byte := bytes16 (BitVec.ofNat 16 n)

/-- Exactly `n` bytes: the given ones, then 0xFF beyond their end. -/
def fillFF (n : Nat) (bs : List Byte) : List Byte := (bs ++ List.replicate n 0xFF).take n

/-- A flags byte: the bits the table names, and a free value in the others, of which `others` is the mask (log 15). -/
def flagsByte (named others : Byte) (choice position : Nat) : Byte := named ||| (Config.unnamedBits choice position &&& others)

/-- QUERY_DEVICE's data (R170). -/
def deviceData (p : Port) (s : State) : List Byte :=
  byte p.val ::
    ((allPorts.flatMap fun q => [(s.port q).state.code, (s.port q).session]) ++
      allTimers.flatMap fun t =>
        flagsByte (bit 7 ((s.timer t).state == .running) ||| absentNibble (s.timer t).owner) 0x70 s.choices t.val ::
          bytes16 (s.timer t).period)

/-- QUERY_DEVICE (R170). -/
def queryDeviceRequest (p : Port) (payload : List Byte) (s : State) : Served :=
  match payload with
  | [] => okWith (deviceData p s) (chosen s)
  | _ => refuse .unknown s

/-- QUERY_PORT's data (R171). -/
def portData (r : PortRecord) : List Byte :=
  [r.state.code, r.session, r.leaseInterval] ++
    (match r.leaseRemaining with
      | some u => count16 (wholeMs u)
      | none => [0xFF, 0xFF]) ++
    [byte r.window, byte r.responses.length] ++
    (match r.replay with
      | some m => [m.tag, m.code]
      | none => [0, 0]) ++
    [byte r.notices.length, byte r.lost] ++ bytes16 r.mask ++ [r.lastFrame.code] ++ bytes16 r.framesTaken ++
    bytes16 r.frameErrors ++ bytes16 r.noticesLost ++ [levelCode r.bnd]

/-- QUERY_PORT (R171). -/
def queryPortRequest (payload : List Byte) (s : State) : Served :=
  match payload with
  | [n] =>
    match index? 4 n with
    | none => refuse .range s
    | some q => okWith (portData (s.port q)) s
  | _ => refuse .unknown s

/-- QUERY_POOL's data (R172): part 0, or one of the four parts of the free list. -/
def poolData (k : Pool) (part : Nat) : List Byte :=
  if part = 0 then
    [k.state.code, absentByte k.owner, byte k.registered, byte k.free.length, byte k.wait.length] ++
      fillFF 16 (k.wait.map fun st => byte st.val)
  else byte k.free.length :: fillFF 16 ((k.free.drop (16 * (part - 1))).map fun b => byte b.val)

/-- QUERY_POOL's checks and answer (R172). -/
def queryPool (n part : Byte) (s : State) : Served :=
  match index? 4 n with
  | none => refuse .range s
  | some k =>
    if 4 < part.toNat then refuse .range s
    else if (s.pool k).state = .unused then refuse .noSuch s
    else okWith (poolData (s.pool k) part.toNat) s

/-- QUERY_POOL (R172). -/
def queryPoolRequest (payload : List Byte) (s : State) : Served :=
  match payload with
  | [n] => queryPool n 0 s
  | [n, part] => queryPool n part s
  | _ => refuse .unknown s

/-- QUERY_STREAM's page 0 (R173): configuration and state. -/
def streamPage0 (x : Stream) (outstanding choice : Nat) : List Byte :=
  [flagsByte (x.state.code ||| bit 2 (x.policy == .every) ||| bit 7 x.parked.isSome) 0x78 choice 0,
   nibbles (absentNibble x.owner) (absentNibble x.producer),
   nibbles (absentNibble x.signaller) (byte x.pool.val),
   nibbles (byte x.depth) (byte x.list.length),
   byte x.quota, byte x.reserve, byte x.signalLimit,
   nibbles (x.consumerMask.setWidth 8) (x.producerMask.setWidth 8)] ++
    bytes16 x.nextSequence ++ [byte outstanding] ++
    (match x.parked with
      | some k => [k.tag, byte (wholeMs k.remaining)]
      | none => [0, 0]) ++
    bytes16 x.published ++ bytes16 x.flips ++ bytes16 x.dropped ++ bytes16 x.expired

/-- The given one of page 1's four positions: index, sequence, marks; 0xFF and zeros where absent. -/
def entryData (choice position : Nat) : Option Entry → List Byte
  | some e =>
    byte e.buffer.val :: (bytes16 e.sequence ++
      [flagsByte (bit 0 e.signalled ||| bit 1 e.shown ||| bit 4 e.passed.c0 ||| bit 5 e.passed.c1 ||| bit 6 e.passed.c2)
        0x8C choice position])
  | none => [0xFF, 0, 0, 0]

/-- QUERY_STREAM's page 1 (R173): four positions of the pending list, from the given one. -/
def streamPage1 (x : Stream) (first choice : Nat) : List Byte :=
  byte x.list.length ::
    (entryData choice 0 x.list[first]? ++ entryData choice 1 x.list[first + 1]? ++ entryData choice 2 x.list[first + 2]? ++
      entryData choice 3 x.list[first + 3]?)

/-- The number of listed entries a slot has not passed (R96). -/
def Stream.unpassed (x : Stream) (c : SlotId) : Nat := x.list.countP fun e => !e.passed.has c

/-- The unpassed entries a page reports. An unoccupied slot reports its cleared values (R93, R173), but Table 6-1 gives this count none:
that the page then reports 0, not the length of the list, is the model's choice (log 29). -/
def Stream.reportedUnpassed (x : Stream) (c : SlotId) : Nat := if (x.slot c).occupied then x.unpassed c else 0

/-- QUERY_STREAM's pages 2 to 4 (R93, R173): one consumer slot. -/
def streamSlotPage (x : Stream) (c : SlotId) (s : State) : List Byte :=
  let k := x.slot c
  [flagsByte (bit 7 k.occupied ||| bit 0 k.stalled) 0x7E s.choices 0, absentByte k.port, k.source.code, absentByte k.current,
   match k.current with
   | some b => (s.buffer b).generation
   | none => 0] ++
    bytes16 (k.currentSequence.getD 0) ++ [byte k.repeats, byte k.threshold, byte (x.reportedUnpassed c)]

/-- QUERY_STREAM's data (R173). -/
def streamData (st : StreamId) (page part : Nat) (s : State) : List Byte :=
  let x := s.stream st
  match page with
  | 0 => streamPage0 x (s.outstanding st) s.choices
  | 1 => streamPage1 x (4 * part) s.choices
  | 2 => streamSlotPage x 0 s
  | 3 => streamSlotPage x 1 s
  | _ => streamSlotPage x 2 s

/-- QUERY_STREAM's checks and answer (R173). -/
def queryStream (n page part : Byte) (s : State) : Served :=
  match index? 16 n with
  | none => refuse .range s
  | some st =>
    if (s.stream st).state = .closed then refuse .noSuch s
    else if 4 < page.toNat ∨ 1 < part.toNat ∨ (part.toNat = 1 ∧ page.toNat ≠ 1) then refuse .range s
    else okWith (streamData st page.toNat part.toNat s) (chosen s)

/-- QUERY_STREAM (R173). -/
def queryStreamRequest (payload : List Byte) (s : State) : Served :=
  match payload with
  | [n, page] => queryStream n page 0 s
  | [n, page, part] => queryStream n page part s
  | _ => refuse .unknown s

/-- The entry of a PUBLISHED record; absent in every other state (R174). -/
def State.entryOfBuffer (s : State) (b : BufferId) : Option Entry :=
  match (s.buffer b).state, (s.buffer b).stream with
  | .published, some st => entryOf (s.stream st).list b
  | _, _ => none

/-- QUERY_BUFFER's data (R174). -/
def bufferData (b : BufferId) (s : State) : List Byte :=
  let r := s.buffer b
  [r.state.code, absentByte r.pool] ++ bytes32 r.handle ++ bytes16 r.layout ++
    [r.generation, absentByte r.stream, byte r.holds, if r.retiring then 1 else 0] ++
    (match s.entryOfBuffer b with
      | some e => bytes16 e.sequence ++ [if e.signalled then 1 else 0]
      | none => [0, 0, 0xFF])

/-- QUERY_BUFFER (R174). -/
def queryBufferRequest (payload : List Byte) (s : State) : Served :=
  match payload with
  | [i] =>
    match index? 64 i with
    | none => refuse .range s
    | some b => okWith (bufferData b s) s
  | _ => refuse .unknown s

/-- The QUERY_DEVICE row. -/
def execQueryDevice (p : Port) (tag : Byte) (payload : List Byte) (s : State) : Host.Outcome State Fault Refusal :=
  .next (sendRequest p tag .queryDevice payload (queryDeviceRequest p payload) s)

/-- The QUERY_PORT row. -/
def execQueryPort (p : Port) (tag : Byte) (payload : List Byte) (s : State) : Host.Outcome State Fault Refusal :=
  .next (sendRequest p tag .queryPort payload (queryPortRequest payload) s)

/-- The QUERY_POOL row. -/
def execQueryPool (p : Port) (tag : Byte) (payload : List Byte) (s : State) : Host.Outcome State Fault Refusal :=
  .next (sendRequest p tag .queryPool payload (queryPoolRequest payload) s)

/-- The QUERY_STREAM row. -/
def execQueryStream (p : Port) (tag : Byte) (payload : List Byte) (s : State) : Host.Outcome State Fault Refusal :=
  .next (sendRequest p tag .queryStream payload (queryStreamRequest payload) s)

/-- The QUERY_BUFFER row. -/
def execQueryBuffer (p : Port) (tag : Byte) (payload : List Byte) (s : State) : Host.Outcome State Fault Refusal :=
  .next (sendRequest p tag .queryBuffer payload (queryBufferRequest payload) s)

end Sys2Proof.Machine
end

