-- ==== Sys2Proof/Machine/Sessions.lean ====
section
/-!
DEFINITION. Sessions and leases (spec/08_sessions_and_leases.md) and the notice mask (spec/07_notices.md): ATTACH, DETACH, RENEW,
SET_NOTICE_MASK, the expiry of a lease, and the stages of a port's sweep.
-/

namespace Sys2Proof.Machine

/-- The port record of a session just opened (R135, steps 1 to 8). -/
def PortRecord.attached (lease : Byte) (r : PortRecord) : PortRecord :=
  { r with
    session := r.session + 1
    leaseInterval := lease
    responses := []
    window := 1
    notices := []
    lost := 0
    noticesLost := 0
    replay := none
    mask := defaultMask
    framesTaken := 0
    frameErrors := 0
    state := .attached
    leaseRemaining := some (lease.toNat * Config.unitsPerLeaseUnit) }

/-- The data of ATTACH's OK response (R135): port, session, lease interval, and the part's capacities. -/
def attachData (p : Port) (r : PortRecord) : List Byte :=
  [byte p.val, r.session, r.leaseInterval, 4, 64, 4, 16, 3, 4, 16]

/-- ATTACH (R135, R136). -/
def attachRequest (p : Port) (payload : List Byte) (s : State) : Served :=
  match payload with
  | [lease] =>
    if (s.port p).state = .attached then
      (s, some ⟨.badState, [(s.port p).session, (s.port p).leaseInterval]⟩)
    else if lease = 0 then refuse .range s
    else
      let t := s.modPort p (PortRecord.attached lease)
      okWith (attachData p (t.port p)) t
  | _ => refuse .unknown s

/-- DETACH (R144): the first stage of the sweep; it parks until the fourth. -/
def detachRequest (p : Port) (tag : Byte) (payload : List Byte) (s : State) : Served :=
  match payload with
  | [] => (firstStage p (some tag) s, none)
  | _ => refuse .unknown s

/-- RENEW (R140). The renewal itself is that of its frame (R139). -/
def renewRequest (p : Port) (payload : List Byte) (s : State) : Served :=
  match payload with
  | [] => okWith [(s.port p).session, (s.port p).leaseInterval] s
  | _ => refuse .unknown s

/-- SET_NOTICE_MASK (R122). -/
def setNoticeMaskRequest (p : Port) (payload : List Byte) (s : State) : Served :=
  match payload with
  | [hi, lo] =>
    if be16 hi lo &&& ~~~maskableKinds ≠ 0 then refuse .range s
    else okWith (bytes16 (s.port p).mask) (s.modPort p fun r => { r with mask := be16 hi lo })
  | _ => refuse .unknown s

/-- The ATTACH row. -/
def execAttach (p : Port) (tag : Byte) (payload : List Byte) (s : State) : Host.Outcome State Fault Refusal :=
  .next (sendRequest p tag .attach payload (attachRequest p payload) s)

/-- The DETACH row. -/
def execDetach (p : Port) (tag : Byte) (payload : List Byte) (s : State) : Host.Outcome State Fault Refusal :=
  .next (sendRequest p tag .detach payload (detachRequest p tag payload) s)

/-- The RENEW row. -/
def execRenew (p : Port) (tag : Byte) (payload : List Byte) (s : State) : Host.Outcome State Fault Refusal :=
  .next (sendRequest p tag .renew payload (renewRequest p payload) s)

/-- The SET_NOTICE_MASK row. -/
def execSetNoticeMask (p : Port) (tag : Byte) (payload : List Byte) (s : State) : Host.Outcome State Fault Refusal :=
  .next (sendRequest p tag .setNoticeMask payload (setNoticeMaskRequest p payload) s)

/-- The LEASE_EXPIRY row (R141): the sweep begins once the interval has elapsed. A renewal taken first restarts the lease, and the
expiry does not occur (R143; log 4); no lease runs on a port that is not ATTACHED (R138; log 6). -/
def execLeaseExpiry (p : Port) (s : State) : Host.Outcome State Fault Refusal :=
  .next (if (s.port p).state = .attached ∧ (s.port p).leaseRemaining = some 0 then firstStage p none s else s)

/-! ### Stream steps (R146 to R150) -/

/-- The producer part (R147). -/
def producerPart (p : Port) (st : StreamId) (s : State) : State :=
  let a := releaseFillings st (s.modStream st fun x => { x with producer := none })
  let sig := (a.stream st).signaller
  let b := if sig.isNone ∨ sig = some p then removeUnsignalled st a else a
  b.modStream st fun x => { x with state := if x.state = .live then .vacant else x.state }

/-- MEMBER_LOST to each remaining member, and to the owner if it is not among them (R150). -/
def noticeMemberLost (p : Port) (st : StreamId) (role : LostRole) (s : State) : State :=
  let x := s.stream st
  let n : Notice := .memberLost st p role (s.port p).session
  let t := queueNotices x.members n s
  match x.owner with
  | some o => if x.isMember o then t else queueNotice o n t
  | none => t

/-- The owner part (R150): the owner absent, then OWNER_LOST to each member. -/
def ownerPart (p : Port) (st : StreamId) (s : State) : State :=
  let t := s.modStream st fun x => { x with owner := none }
  queueNotices (t.stream st).members (.ownerLost st p (t.port p).session) t

/-- Parts 1 to 5 of a stream step: the producer, consumer and signaller parts where they apply, the settling, MEMBER_LOST. -/
def roleParts (p : Port) (st : StreamId) (s : State) : State :=
  let x := s.stream st
  if x.producer = some p then
    noticeMemberLost p st .producer (settle st (producerPart p st s))
  else match x.slotOf p with
    | some c =>
      let a := clearSlot st c s
      let b := if x.signaller = some p then removeUnsignalled st a else a
      noticeMemberLost p st (.consumer c) (settle st b)
    | none => if x.signaller = some p then settle st (removeUnsignalled st s) else s

/-- A stream step for a lapsing port (R146). -/
def streamStep (p : Port) (st : StreamId) (s : State) : State :=
  let x := s.stream st
  if x.state = .closed then s
  else if x.isMember p = false ∧ x.signaller ≠ some p ∧ x.owner ≠ some p then s
  else
    let a := roleParts p st s
    let b := if x.owner = some p then ownerPart p st a else a
    drainTest st b

/-- The step of a sweep that follows the stream step for `st` (Table 8-3). -/
def stepAfter (st : StreamId) : SweepStep :=
  if h : st.val + 1 < 16 then .stream ⟨st.val + 1, h⟩ else .thirdStage

/-- The port's sweep is at the given step (log 16). -/
abbrev State.sweepAt (s : State) (p : Port) (step : SweepStep) : Prop :=
  (s.port p).state = .lapsing ∧ (s.port p).sweep.map Sweep.next = some step

/-- The port's sweep goes on to the given step. -/
def advanceSweep (p : Port) (step : SweepStep) (s : State) : State :=
  s.modPort p fun r => { r with sweep := r.sweep.map fun w => { w with next := step } }

/-- The STREAM_STEP row (R146). A step that is not the sweep's next one cannot occur (R152; log 6). -/
def execStreamStep (p : Port) (st : StreamId) (s : State) : Host.Outcome State Fault Refusal :=
  .next (if s.sweepAt p (.stream st) then
    advanceSweep p (stepAfter st) (streamStep p st s) else s)

/-- An owner that is port `p` becomes absent. -/
def disown (p : Port) (owner : Option Port) : Option Port := if owner = some p then none else owner

/-- The SWEEP_THIRD_STAGE row (R151): pools and timers of the port get an absent owner. -/
def execSweepThirdStage (p : Port) (s : State) : Host.Outcome State Fault Refusal :=
  .next (if s.sweepAt p .thirdStage then
    advanceSweep p .fourthStage
      { s with pools := mapBank (fun k => { k with owner := disown p k.owner }) s.pools
               timers := mapBank (fun t => { t with owner := disown p t.owner }) s.timers }
  else s)

/-- The port record at the end of its sweep (R151): DETACHED, and the DETACH's OK response where a DETACH began it. -/
def PortRecord.swept (r : PortRecord) (detachTag : Option Byte) : PortRecord :=
  match detachTag with
  | some tag =>
    { r with state := .detached, sweep := none, window := 1,
             responses := r.responses ++ [⟨tag, codeOf .detach, .ok, [r.session]⟩] }
  | none => { r with state := .detached, sweep := none }

/-- The SWEEP_FOURTH_STAGE row (R151). -/
def execSweepFourthStage (p : Port) (s : State) : Host.Outcome State Fault Refusal :=
  .next (if s.sweepAt p .fourthStage then
    s.modPort p fun r => r.swept (r.sweep.bind Sweep.detachTag)
  else s)

end Sys2Proof.Machine
end

