-- ==== Sys2Proof/Machine/Streams.lean ====
section
/-!
DEFINITION. The requests of spec/02_streams.md: OPEN_STREAM, CONFIGURE_STREAM, CLOSE_STREAM, CLAIM_STREAM, JOIN_PRODUCER, and LEAVE in
both its kinds (R35, R101).
-/

namespace Sys2Proof.Machine

/-- The lowest-numbered CLOSED stream record (R27). -/
def State.closedStream (s : State) : Option StreamId :=
  allStreams.find? fun st => (s.stream st).state == .closed

/-- The pool that the items name is UNUSED (R26 check 2, R29 check 6). -/
def poolMissing (c : ConfigItems) (s : State) : Bool :=
  match c.pool with
  | some b =>
    match index? 4 b with
    | some k => (s.pool k).state == .unused
    | none => false
  | none => false

/-- A stream just opened (R27): cleared but for its state, owner, configuration and next sequence. -/
def openedStream (p : Port) (c : ConfigItems) : Stream :=
  { c.apply Stream.cleared with state := .vacant, owner := some p, nextSequence := 1 }

/-- OPEN_STREAM (R26, R27). -/
def openStreamRequest (p : Port) (payload : List Byte) (s : State) : Served :=
  match openItems? payload with
  | none => refuse .unknown s
  | some c =>
    if c.inRange Stream.cleared.quota Stream.cleared.reserve = false then refuse .range s
    else if poolMissing c s then refuse .noSuch s
    else match s.closedStream with
      | none => refuse .noSlot s
      | some st => okWith [byte st.val] (s.modStream st fun _ => openedStream p c)

/-- The effects of a CONFIGURE_STREAM that passes its checks (R29 to R31, R50, R55): the parked ACQUIRE is cancelled where the pool
changes, the items take their values in one event, and the arbiter runs where the quota or reserve of a waiting stream changes. -/
def configure (st : StreamId) (c : ConfigItems) (s : State) : State :=
  let x := s.stream st
  let a := if c.poolOf x.pool ≠ x.pool then cancelParked st s else s
  let b := a.modStream st c.apply
  let y := b.stream st
  if y.parked.isSome ∧ (y.quota ≠ x.quota ∨ y.reserve ≠ x.reserve) then runArbiter y.pool b else b

/-- The checks of R29 from the third on, for a stream that is not CLOSED; no result where all pass. -/
def configureRefusal (p : Port) (st : StreamId) (c : ConfigItems) (s : State) : Option ResultCode :=
  let x := s.stream st
  if x.owner ≠ some p then some .denied
  else if x.state = .draining then some .closed
  else if c.inRange x.quota x.reserve = false then some .range
  else if poolMissing c s then some .noSuch
  else if (c.poolOf x.pool ≠ x.pool ∨ c.policyOf x.policy ≠ x.policy) ∧ 0 < s.outstanding st then some .badState
  else if c.depth.isSome ∧ itemNat c.depth x.depth < x.list.length then some .badState
  else none

/-- CONFIGURE_STREAM (R28 to R31). -/
def configureStreamRequest (p : Port) (payload : List Byte) (s : State) : Served :=
  match payload with
  | n :: selector :: values =>
    match selectedItems? selector values with
    | none => refuse .unknown s
    | some c =>
      match index? 16 n with
      | none => refuse .range s
      | some st =>
        if (s.stream st).state = .closed then refuse .noSuch s
        else match configureRefusal p st c s with
          | some r => refuse r s
          | none => okWith [] (configure st c s)
  | _ => refuse .unknown s

/-- Steps 1 to 4 of R37: DRAINING, the parked ACQUIRE cancelled, every entry removed oldest first, STREAM_CLOSING to the
members. -/
def closeStream (st : StreamId) (s : State) : State :=
  let a := cancelParked st (s.modStream st fun x => { x with state := .draining })
  let b := removeEntries st ((a.stream st).list.map Entry.buffer) a
  queueNotices (b.stream st).members (.streamClosing st (b.outstanding st)) b

/-- CLOSE_STREAM (R36, R37): the response carries the outstanding count as it stands after step 3; the drain completion test
follows. -/
def closeStreamRequest (p : Port) (payload : List Byte) (s : State) : Served :=
  match payload with
  | [n] =>
    match index? 16 n with
    | none => refuse .range s
    | some st =>
      if (s.stream st).state = .closed then refuse .noSuch s
      else if (s.stream st).owner ≠ some p then refuse .denied s
      else if (s.stream st).state = .draining then okWith [byte (s.outstanding st)] s
      else
        let t := closeStream st s
        okWith [byte (t.outstanding st)] (drainTest st t)
  | _ => refuse .unknown s

/-- CLAIM_STREAM (R41, R25). -/
def claimStreamRequest (p : Port) (payload : List Byte) (s : State) : Served :=
  match payload with
  | [n] =>
    match index? 16 n with
    | none => refuse .range s
    | some st =>
      let x := s.stream st
      if x.state = .closed then refuse .noSuch s
      else if x.owner = some p then okWith [] s
      else if admits x.producerMask p = false ∧ admits x.consumerMask p = false ∧ x.hasMember then refuse .denied s
      else if x.owner.isSome then refuse .denied s
      else okWith [] (s.modStream st fun y => { y with owner := some p })
  | _ => refuse .unknown s

/-- JOIN_PRODUCER (R34). -/
def joinProducerRequest (p : Port) (payload : List Byte) (s : State) : Served :=
  match payload with
  | [n] =>
    match index? 16 n with
    | none => refuse .range s
    | some st =>
      let x := s.stream st
      if x.state = .closed then refuse .noSuch s
      else if x.state = .draining then refuse .closed s
      else if admits x.producerMask p = false then refuse .denied s
      else if x.producer.isSome then refuse .badState s
      else if (x.slotOf p).isSome then refuse .badState s
      else
        okWith (bytes16 x.nextSequence ++ [byte (s.outstanding st)])
          (s.modStream st fun y => { y with producer := some p, state := .live })
  | _ => refuse .unknown s

/-- A LIVE stream whose producer has gone becomes VACANT (R35 step 6, R147 step 4). -/
def vacate (st : StreamId) (s : State) : State :=
  s.modStream st fun x => { x with state := if x.state = .live then .vacant else x.state }

/-- A producer LEAVE (R35), steps 1 to 6. -/
def producerLeave (st : StreamId) (s : State) : State :=
  let a := (cancelParked st s).modStream st fun x => { x with producer := none }
  let b := releaseFillings st a
  let c := if (b.stream st).signaller.isNone then removeUnsignalled st b else b
  drainTest st (vacate st (settle st c))

/-- A consumer LEAVE (R101), steps 1 to 5. -/
def consumerLeave (st : StreamId) (c : SlotId) (s : State) : State :=
  drainTest st (settle st (clearSlot st c s))

/-- LEAVE (R35, R101): by the role the port holds. -/
def leaveRequest (p : Port) (payload : List Byte) (s : State) : Served :=
  match payload with
  | [n] =>
    match index? 16 n with
    | none => refuse .range s
    | some st =>
      if (s.stream st).state = .closed then refuse .noSuch s
      else if (s.stream st).producer = some p then okWith [] (producerLeave st s)
      else match (s.stream st).slotOf p with
        | some c => okWith [] (consumerLeave st c s)
        | none => refuse .denied s
  | _ => refuse .unknown s

/-- The OPEN_STREAM row. -/
def execOpenStream (p : Port) (tag : Byte) (payload : List Byte) (s : State) : Host.Outcome State Fault Refusal :=
  .next (sendRequest p tag .openStream payload (openStreamRequest p payload) s)

/-- The CONFIGURE_STREAM row. -/
def execConfigureStream (p : Port) (tag : Byte) (payload : List Byte) (s : State) : Host.Outcome State Fault Refusal :=
  .next (sendRequest p tag .configureStream payload (configureStreamRequest p payload) s)

/-- The CLOSE_STREAM row. -/
def execCloseStream (p : Port) (tag : Byte) (payload : List Byte) (s : State) : Host.Outcome State Fault Refusal :=
  .next (sendRequest p tag .closeStream payload (closeStreamRequest p payload) s)

/-- The CLAIM_STREAM row. -/
def execClaimStream (p : Port) (tag : Byte) (payload : List Byte) (s : State) : Host.Outcome State Fault Refusal :=
  .next (sendRequest p tag .claimStream payload (claimStreamRequest p payload) s)

/-- The JOIN_PRODUCER row. -/
def execJoinProducer (p : Port) (tag : Byte) (payload : List Byte) (s : State) : Host.Outcome State Fault Refusal :=
  .next (sendRequest p tag .joinProducer payload (joinProducerRequest p payload) s)

/-- The LEAVE row. -/
def execLeave (p : Port) (tag : Byte) (payload : List Byte) (s : State) : Host.Outcome State Fault Refusal :=
  .next (sendRequest p tag .leave payload (leaveRequest p payload) s)

end Sys2Proof.Machine
end

