-- ==== Sys2Proof/Machine/Timers.lean ====
section
/-!
DEFINITION. Boundary sources (spec/05_boundary_sources.md): START_TIMER, STOP_TIMER, CLAIM_TIMER, the expiry of a timer, and the
qualified edges of a BND line.
-/

namespace Sys2Proof.Machine

/-- START_TIMER (R88). -/
def startTimerRequest (p : Port) (payload : List Byte) (s : State) : Served :=
  match payload with
  | [n, hi, lo] =>
    match index? 4 n with
    | none => refuse .range s
    | some t =>
      if be16 hi lo = 0 then refuse .range s
      else if (s.timer t).owner.isSome ∧ (s.timer t).owner ≠ some p then refuse .denied s
      else
        okWith [] (s.modTimer t fun _ =>
          { state := .running, owner := some p, period := be16 hi lo, remaining := some (be16 hi lo).toNat })
  | _ => refuse .unknown s

/-- STOP_TIMER (R90). -/
def stopTimerRequest (p : Port) (payload : List Byte) (s : State) : Served :=
  match payload with
  | [n] =>
    match index? 4 n with
    | none => refuse .range s
    | some t =>
      if (s.timer t).owner ≠ some p then refuse .denied s
      else okWith [] (s.modTimer t fun r => { r with state := .stopped, remaining := none })
  | _ => refuse .unknown s

/-- CLAIM_TIMER (R91). -/
def claimTimerRequest (p : Port) (payload : List Byte) (s : State) : Served :=
  match payload with
  | [n] =>
    match index? 4 n with
    | none => refuse .range s
    | some t =>
      match (s.timer t).owner with
      | none => okWith [] (s.modTimer t fun r => { r with owner := some p })
      | some o => if o = p then okWith [] s else refuse .denied s
  | _ => refuse .unknown s

/-- Every consumer slot of the part, S0's first. -/
def everySlot : List (StreamId × SlotId) := allStreams.flatMap fun st => allSlots.map fun c => (st, c)

/-- One boundary addressed to each occupied slot that fits (R85, R89). -/
def address (fits : Slot → Bool) (s : State) : State :=
  { s with addressed := s.addressed ++ everySlot.filter fun a =>
      let k := (s.stream a.1).slot a.2
      k.occupied && fits k }

/-- The START_TIMER row. -/
def execStartTimer (p : Port) (tag : Byte) (payload : List Byte) (s : State) : Host.Outcome State Fault Refusal :=
  .next (sendRequest p tag .startTimer payload (startTimerRequest p payload) s)

/-- The STOP_TIMER row. -/
def execStopTimer (p : Port) (tag : Byte) (payload : List Byte) (s : State) : Host.Outcome State Fault Refusal :=
  .next (sendRequest p tag .stopTimer payload (stopTimerRequest p payload) s)

/-- The CLAIM_TIMER row. -/
def execClaimTimer (p : Port) (tag : Byte) (payload : List Byte) (s : State) : Host.Outcome State Fault Refusal :=
  .next (sendRequest p tag .claimTimer payload (claimTimerRequest p payload) s)

/-- The TIMER_EXPIRY row (R89): boundaries addressed, the countdown reloaded. It cannot occur on a STOPPED timer (Table 5-2) nor
before the remaining time is zero, so a STOP_TIMER or START_TIMER taken first leaves nothing to expire (R92; log 4, log 6). -/
def execTimerExpiry (t : TimerId) (s : State) : Host.Outcome State Fault Refusal :=
  .next (if (s.timer t).state = .running ∧ (s.timer t).remaining = some 0 then
    (address (fun k => k.source == .timer t) s).modTimer t fun r => { r with remaining := some r.period.toNat }
  else s)

/-- The QUALIFIED_RISING_EDGE row (R84, R85). The qualifier stands still during a device reset (R183), and a level that is HIGH
already does not rise (log 6). -/
def execQualifiedRisingEdge (p : Port) (s : State) : Host.Outcome State Fault Refusal :=
  .next (if s.phase ≠ .resetting ∧ (s.port p).bnd = .low then
    address (fun k => k.source == .line && k.port == some p) (s.modPort p fun r => { r with bnd := .high })
  else s)

/-- The QUALIFIED_FALL row (R84): no boundary. -/
def execQualifiedFall (p : Port) (s : State) : Host.Outcome State Fault Refusal :=
  .next (if s.phase ≠ .resetting then s.modPort p fun r => { r with bnd := .low } else s)

end Sys2Proof.Machine
end

