-- ==== Sys2Proof/Machine/Frames.lean ====
section
/-!
DEFINITION. The rows over raw bytes. SEND (R177): the bytes of a SEND window, judged by the link and, when well formed, by the Request
Engine, which executes the request the code byte names or refuses it UNKNOWN (R168). BAD_TRANSACTION (R175): the bytes of a window, of
which the first decides what the window is.
-/

namespace Sys2Proof.Machine

/-- What each request of the catalogue executes (Table 9-2). -/
def requestBody (name : RequestName) (p : Port) (tag : Byte) (payload : List Byte) : State → Served :=
  match name with
  | .attach => attachRequest p payload
  | .detach => detachRequest p tag payload
  | .renew => renewRequest p payload
  | .setNoticeMask => setNoticeMaskRequest p payload
  | .createPool => createPoolRequest p payload
  | .dissolvePool => dissolvePoolRequest p payload
  | .claimPool => claimPoolRequest p payload
  | .registerBuffer => registerBufferRequest p payload
  | .retireBuffer => retireBufferRequest p payload
  | .openStream => openStreamRequest p payload
  | .configureStream => configureStreamRequest p payload
  | .closeStream => closeStreamRequest p payload
  | .claimStream => claimStreamRequest p payload
  | .joinProducer => joinProducerRequest p payload
  | .leave => leaveRequest p payload
  | .acquire => acquireRequest p tag payload
  | .abandon => abandonRequest p payload
  | .publish => publishRequest p payload
  | .signal => signalRequest p payload
  | .joinConsumer => joinConsumerRequest p payload
  | .retuneConsumer => retuneConsumerRequest p payload
  | .ackStall => ackStallRequest p payload
  | .startTimer => startTimerRequest p payload
  | .stopTimer => stopTimerRequest p payload
  | .claimTimer => claimTimerRequest p payload
  | .queryDevice => queryDeviceRequest p payload
  | .queryPort => queryPortRequest payload
  | .queryPool => queryPoolRequest payload
  | .queryStream => queryStreamRequest payload
  | .queryBuffer => queryBufferRequest payload

/-- What a taken frame executes: the request its code names, or UNKNOWN (R168). -/
def frameBody (p : Port) (tag code : Byte) (payload : List Byte) : State → Served :=
  match requestOfCode code with
  | some name => requestBody name p tag payload
  | none => refuse .unknown

/-- A judged SEND window (R177). -/
def applyJudged (p : Port) (j : Judged) (s : State) : State :=
  match j with
  | .lengthError => linkError p .lengthError s
  | .truncated => linkError p .truncated s
  | .crcError => linkError p .crcError s
  | .wellFormed tag code payload check => engine p tag code check (frameBody p tag code payload) s

/-- A SEND window: the bytes clocked after the transaction code. A frame that names a request of the catalogue is taken as that
request's row takes it (log 22). -/
def sendWindow (p : Port) (bytes : List Byte) (s : State) : State :=
  transaction p (statusThen bytes.length) (fun _ t => applyJudged p (judgeBytes bytes) t) s

/-- The SEND row. -/
def execSend (p : Port) (bytes : List Byte) (s : State) : Host.Outcome State Fault Refusal := .next (sendWindow p bytes s)

/-- The first byte decides what the rest of the window is (R175, Table 10-1). -/
def byteWindow (p : Port) (first : Byte) (more : List Byte) (s : State) : State :=
  match transactionOf first with
  | some .status => statusWindow p more.length s
  | some .send => sendWindow p more s
  | some .fetchResponse => fetchResponseWindow p more.length s
  | some .fetchNotice => fetchNoticeWindow p more.length s
  | none => unknownWindow p more.length s

/-- The BAD_TRANSACTION row: a window by its bytes. Where the first byte is a transaction code, that transaction is what the window is
(log 30). -/
def execBadTransaction (p : Port) (first : Byte) (more : List Byte) (s : State) : Host.Outcome State Fault Refusal :=
  .next (byteWindow p first more s)

end Sys2Proof.Machine
end

