-- ==== Sys2Proof/Machine/Reset.lean ====
section
/-!
DEFINITION. Device reset, its release, power-up and the recovery interval (R183, R184, R154; spec/10_the_master_port_link.md 10.9).
-/

namespace Sys2Proof.Machine

/-- A port record after a device reset (Table 8-1). A transaction that was open ends at once: the rest of its window counts for
nothing (R183; log 21). -/
def PortRecord.afterReset (r : PortRecord) : PortRecord :=
  { PortRecord.reset with select := if r.select = .high then .high else .void }

/-- Every record at its device-reset value (R183); the level of RESET_N and the supplies are the lines' own. -/
def resetRecords (s : State) : State :=
  { s with
    buffers := State.reset.buffers
    pools := State.reset.pools
    streams := State.reset.streams
    timers := State.reset.timers
    ports := mapBank PortRecord.afterReset s.ports
    addressed := []
    phase := .resetting }

/-- The reset ends once RESET_N is high and the supplies are within limits (R184): the recovery interval begins, and the BND
qualifiers restart from LOW. -/
def endReset (s : State) : State :=
  if s.phase = .resetting ∧ s.resetN = .high ∧ s.supplies then
    { s with phase := .recovering, ports := mapBank (fun r => { r with bnd := .low }) s.ports }
  else s

/-- The DEVICE_RESET row (R183, R184). -/
def execDeviceReset (cause : ResetCause) (s : State) : Host.Outcome State Fault Refusal :=
  .next (match cause with
    | .pin => { resetRecords s with resetN := .low }
    | .powerUp level => { resetRecords s with resetN := level, supplies := false })

/-- The RESET_RELEASE row (R184): RESET_N rises. Outside a device reset nothing begins (R183: a shorter low level changes
nothing). -/
def execResetRelease (s : State) : Host.Outcome State Fault Refusal :=
  .next (endReset { s with resetN := .high })

/-- The POWER_UP_END row (R184): the supplies are within limits with CLK_IN running. -/
def execPowerUpEnd (s : State) : Host.Outcome State Fault Refusal :=
  .next (endReset { s with supplies := true })

/-- The RECOVERY_END row (R184): each port serves the next transaction whose select falls. -/
def execRecoveryEnd (s : State) : Host.Outcome State Fault Refusal :=
  .next (if s.phase = .recovering then { s with phase := .serving } else s)

end Sys2Proof.Machine
end

