-- ==== Sys2Proof/Machine/Dispatch.lean ====
section
/-!
DEFINITION. One arm per row of spec/opcode_table.json, each a direct call of its meaning.
-/

namespace Sys2Proof.Machine

def exec (i : Instr) (s : State) : Host.Outcome State Fault Refusal :=
  match i with
  | .attach p tag payload => Sys2Proof.Machine.execAttach p tag payload s
  | .detach p tag payload => Sys2Proof.Machine.execDetach p tag payload s
  | .renew p tag payload => Sys2Proof.Machine.execRenew p tag payload s
  | .setNoticeMask p tag payload => Sys2Proof.Machine.execSetNoticeMask p tag payload s
  | .createPool p tag payload => Sys2Proof.Machine.execCreatePool p tag payload s
  | .dissolvePool p tag payload => Sys2Proof.Machine.execDissolvePool p tag payload s
  | .claimPool p tag payload => Sys2Proof.Machine.execClaimPool p tag payload s
  | .registerBuffer p tag payload => Sys2Proof.Machine.execRegisterBuffer p tag payload s
  | .retireBuffer p tag payload => Sys2Proof.Machine.execRetireBuffer p tag payload s
  | .openStream p tag payload => Sys2Proof.Machine.execOpenStream p tag payload s
  | .configureStream p tag payload => Sys2Proof.Machine.execConfigureStream p tag payload s
  | .closeStream p tag payload => Sys2Proof.Machine.execCloseStream p tag payload s
  | .claimStream p tag payload => Sys2Proof.Machine.execClaimStream p tag payload s
  | .joinProducer p tag payload => Sys2Proof.Machine.execJoinProducer p tag payload s
  | .leave p tag payload => Sys2Proof.Machine.execLeave p tag payload s
  | .acquire p tag payload => Sys2Proof.Machine.execAcquire p tag payload s
  | .abandon p tag payload => Sys2Proof.Machine.execAbandon p tag payload s
  | .publish p tag payload => Sys2Proof.Machine.execPublish p tag payload s
  | .signal p tag payload => Sys2Proof.Machine.execSignal p tag payload s
  | .joinConsumer p tag payload => Sys2Proof.Machine.execJoinConsumer p tag payload s
  | .retuneConsumer p tag payload => Sys2Proof.Machine.execRetuneConsumer p tag payload s
  | .ackStall p tag payload => Sys2Proof.Machine.execAckStall p tag payload s
  | .startTimer p tag payload => Sys2Proof.Machine.execStartTimer p tag payload s
  | .stopTimer p tag payload => Sys2Proof.Machine.execStopTimer p tag payload s
  | .claimTimer p tag payload => Sys2Proof.Machine.execClaimTimer p tag payload s
  | .queryDevice p tag payload => Sys2Proof.Machine.execQueryDevice p tag payload s
  | .queryPort p tag payload => Sys2Proof.Machine.execQueryPort p tag payload s
  | .queryPool p tag payload => Sys2Proof.Machine.execQueryPool p tag payload s
  | .queryStream p tag payload => Sys2Proof.Machine.execQueryStream p tag payload s
  | .queryBuffer p tag payload => Sys2Proof.Machine.execQueryBuffer p tag payload s
  | .send p bytes => Sys2Proof.Machine.execSend p bytes s
  | .status p more => Sys2Proof.Machine.execStatus p more s
  | .fetchResponse p clocked => Sys2Proof.Machine.execFetchResponse p clocked s
  | .fetchNotice p clocked => Sys2Proof.Machine.execFetchNotice p clocked s
  | .badTransaction p first more => Sys2Proof.Machine.execBadTransaction p first more s
  | .qualifiedRisingEdge p => Sys2Proof.Machine.execQualifiedRisingEdge p s
  | .qualifiedFall p => Sys2Proof.Machine.execQualifiedFall p s
  | .timerExpiry t => Sys2Proof.Machine.execTimerExpiry t s
  | .boundary st c => Sys2Proof.Machine.execBoundary st c s
  | .acquireWaitExpiry st => Sys2Proof.Machine.execAcquireWaitExpiry st s
  | .signalExpiry st b => Sys2Proof.Machine.execSignalExpiry st b s
  | .leaseExpiry p => Sys2Proof.Machine.execLeaseExpiry p s
  | .streamStep p st => Sys2Proof.Machine.execStreamStep p st s
  | .sweepThirdStage p => Sys2Proof.Machine.execSweepThirdStage p s
  | .sweepFourthStage p => Sys2Proof.Machine.execSweepFourthStage p s
  | .deviceReset cause => Sys2Proof.Machine.execDeviceReset cause s
  | .resetRelease => Sys2Proof.Machine.execResetRelease s
  | .recoveryEnd => Sys2Proof.Machine.execRecoveryEnd s
  | .fallOfSelect p tooSoon => Sys2Proof.Machine.execFallOfSelect p tooSoon s
  | .powerUpEnd => Sys2Proof.Machine.execPowerUpEnd s

end Sys2Proof.Machine
end

