-- ==== Sys2Proof/Machine/Idle.lean ====
section
/-!
DEFINITION. What the part does when no command waits (log 3, log 5). Events that are due go into the queue: the end of recovery,
boundaries addressed and not yet taken (R86), the next steps of sweeps under way (R152). When none is due, 100 µs pass: every
countdown falls by one unit (R49, R74, R89, R141), and the deadlines that run out put their expiries into the queue.
-/

namespace Sys2Proof.Machine

/-- The row of a sweep's next step. -/
def SweepStep.row (p : Port) : SweepStep → Instr
  | .stream st => .streamStep p st
  | .thirdStage => .sweepThirdStage p
  | .fourthStage => .sweepFourthStage p

/-- The next step of the port's sweep, if one is under way. -/
def State.sweepDue (s : State) (p : Port) : List Instr :=
  match (s.port p).state, (s.port p).sweep with
  | .lapsing, some w => [w.next.row p]
  | _, _ => []

/-- The events that are due at once (R86, R152). -/
def State.dueNow (s : State) : List Instr :=
  (s.addressed.map fun a => .boundary a.1 a.2) ++ allPorts.flatMap s.sweepDue

/-- A countdown one unit later. -/
def countDown (x : Option Nat) : Option Nat := x.map fun n => n - 1

/-- An entry one unit later. -/
def Entry.tick (e : Entry) : Entry := { e with deadline := countDown e.deadline }

/-- A stream one unit later: its acquire wait and its signal deadlines. -/
def Stream.tick (x : Stream) : Stream :=
  { x with parked := x.parked.map fun k => { k with remaining := k.remaining - 1 }, list := x.list.map Entry.tick }

/-- The state one unit of 100 µs later. -/
def passTime (s : State) : State :=
  { s with
    timers := mapBank (fun t => { t with remaining := countDown t.remaining }) s.timers
    streams := mapBank Stream.tick s.streams
    ports := mapBank (fun r => { r with leaseRemaining := countDown r.leaseRemaining }) s.ports }

/-- The expiries of a stream whose time has run out: of its acquire wait, and of its entries' signal deadlines. -/
def State.streamDue (s : State) (st : StreamId) : List Instr :=
  (if (s.stream st).parked.map Parked.remaining = some 0 then [.acquireWaitExpiry st] else []) ++
    ((s.stream st).list.filter fun e => e.deadline == some 0).map fun e => .signalExpiry st e.buffer

/-- The expiries whose time has run out, timers first, then streams, then leases (log 5). -/
def State.expiriesDue (s : State) : List Instr :=
  ((allTimers.filter fun t => (s.timer t).remaining == some 0).map Instr.timerExpiry) ++
    allStreams.flatMap s.streamDue ++
    (allPorts.filter fun p => (s.port p).leaseRemaining == some 0).map Instr.leaseExpiry

/-- The part goes on by itself. -/
def idle (s : State) : State :=
  match s.phase with
  | .resetting => s
  | .recovering => { s with pending := [.recoveryEnd] }
  | .serving =>
    match s.dueNow with
    | c :: rest => { s with pending := c :: rest }
    | [] =>
      let t := passTime s
      { t with pending := t.expiriesDue }

end Sys2Proof.Machine
end

