-- ==== Sys2Proof/Machine/Step.lean ====
section
/-!
DEFINITION. One step: the command at the front of the queue is executed on the state with the queue's rest; on an empty queue the
part goes on by itself (Machine/Idle.lean; log 3, log 5).
-/

namespace Sys2Proof.Machine

/-- One step of the part. -/
def step (s : State) : Host.Outcome State Fault Refusal :=
  match s.pending with
  | c :: rest => exec c { s with pending := rest }
  | [] => .next (idle s)

/-- The command a word spells put at the front of the queue; the state unchanged where the word spells none. -/
def State.withFetchWord (s : State) (nbits w : Nat) : State :=
  match decodeTableWord nbits w with
  | some c => { s with pending := c :: s.pending }
  | none => s

end Sys2Proof.Machine
end

