-- ==== Sys2Proof/Safety.lean ====
section
/-!
DEFINITION. The words in which statements about the part are written: when a port serves a transaction and takes a request, the state
after a request is taken and answered, and the invariants of the part.
-/

namespace Sys2Proof.Machine

/-! ### Taking and answering a request -/

/-- The row of a request. -/
def requestRow (name : RequestName) (p : Port) (tag : Byte) (payload : List Byte) : Instr :=
  match name with
  | .attach => .attach p tag payload
  | .detach => .detach p tag payload
  | .renew => .renew p tag payload
  | .setNoticeMask => .setNoticeMask p tag payload
  | .createPool => .createPool p tag payload
  | .dissolvePool => .dissolvePool p tag payload
  | .claimPool => .claimPool p tag payload
  | .registerBuffer => .registerBuffer p tag payload
  | .retireBuffer => .retireBuffer p tag payload
  | .openStream => .openStream p tag payload
  | .configureStream => .configureStream p tag payload
  | .closeStream => .closeStream p tag payload
  | .claimStream => .claimStream p tag payload
  | .joinProducer => .joinProducer p tag payload
  | .leave => .leave p tag payload
  | .acquire => .acquire p tag payload
  | .abandon => .abandon p tag payload
  | .publish => .publish p tag payload
  | .signal => .signal p tag payload
  | .joinConsumer => .joinConsumer p tag payload
  | .retuneConsumer => .retuneConsumer p tag payload
  | .ackStall => .ackStall p tag payload
  | .startTimer => .startTimer p tag payload
  | .stopTimer => .stopTimer p tag payload
  | .claimTimer => .claimTimer p tag payload
  | .queryDevice => .queryDevice p tag payload
  | .queryPort => .queryPort p tag payload
  | .queryPool => .queryPool p tag payload
  | .queryStream => .queryStream p tag payload
  | .queryBuffer => .queryBuffer p tag payload

/-- The port serves the transaction that ends: its window is open, or it opens while the part serves (R175, R184). -/
def State.serves (s : State) (p : Port) : Bool :=
  match (s.port p).select with
  | .high => s.phase == .serving
  | .low _ => true
  | .void => false

/-- What the port fixed, or fixes, at the fall of select of that transaction (R175). -/
def State.window (s : State) (p : Port) : Window :=
  match (s.port p).select with
  | .low w => w
  | _ => { status := (s.port p).statusByte, response := (s.port p).responses.head?, notice := (s.port p).notices.head? }

/-- The frame matches the port's replay record (R155). -/
def PortRecord.matchesReplay (r : PortRecord) (tag code check : Byte) : Bool :=
  match r.replay with
  | some m => tag != 0 && tag == m.tag && code == m.code && check == m.check
  | none => false

/-- A frame with this request code is taken from an ATTACHED port: R155, step 6. -/
def State.takes (s : State) (p : Port) (tag code : Byte) (payload : List Byte) : Bool :=
  s.serves p && (s.port p).state == .attached && decide ((s.port p).window < 4) && decide (payload.length ≤ 32) &&
    !(s.port p).matchesReplay tag code (frameCrc tag code payload)

/-- A frame with this request code is taken from a DETACHED port: R155, step 6. ATTACH and QUERY_DEVICE alone are. -/
def State.takesDetached (s : State) (p : Port) (code : Byte) (payload : List Byte) : Bool :=
  s.serves p && (s.port p).state == .detached && decide ((s.port p).window < 4) && decide (payload.length ≤ 32) &&
    (code == 0x10 || code == 0x70)

/-- The frame becomes the replay record (R163): a nonzero tag, an ATTACHED port, a code other than ATTACH. -/
def State.recorded (s : State) (p : Port) (tag code : Byte) : Bool :=
  (s.port p).state == .attached && tag != 0 && code != 0x10

/-- The port's part in taking a frame (R155, R157, R163, R179), its window still open: TAKEN, one frame more, one place more, the
replay record. -/
def State.taken (s : State) (p : Port) (tag code : Byte) (payload : List Byte) : State :=
  s.modPort p fun r =>
    { r with
      lastFrame := .taken
      framesTaken := r.framesTaken + 1
      window := r.window + 1
      replay := if s.recorded p tag code then
          some { tag := tag, code := code, check := frameCrc tag code payload, copy := none, parkedOn := none }
        else r.replay
      select := .low (s.window p) }

/-- The end of a transaction that renews no lease: select high, the given bytes shifted out. -/
def State.shuts (p : Port) (out : List Byte) (t : State) : State :=
  t.modPort p fun r => { r with select := .high, shifted := some out }

/-- The end of a transaction that renews the lease of an ATTACHED port (R139). -/
def State.closes (p : Port) (out : List Byte) (t : State) : State :=
  (t.modPort p fun r =>
    { r with leaseRemaining :=
        if r.state = .attached then some (r.leaseInterval.toNat * 100) else r.leaseRemaining }).shuts p out

/-- What `n` bytes after the transaction code get shifted out in a SEND, STATUS or unknown window (Table 10-1). -/
def State.shiftsOut (s : State) (p : Port) (n : Nat) : List Byte := (s.window p).status :: List.replicate n 0xFF

/-- The end of the SEND transaction of a request that was taken; `s` is the state before the transaction, `t` the state after its
effects. -/
def State.sends (s : State) (p : Port) (payload : List Byte) (t : State) : State :=
  t.closes p (s.shiftsOut p (payload.length + 4))

/-- The completion within the event (R159, R163): the response joins the tail of the queue and is copied into the replay record
that the frame has become; then the transaction ends. -/
def State.responds (s : State) (p : Port) (tag code : Byte) (payload : List Byte) (result : ResultCode) (data : List Byte)
    (t : State) : State :=
  s.sends p payload (t.modPort p fun r =>
    { r with
      responses := r.responses ++ [⟨tag, code, result, data⟩]
      replay := if s.recorded p tag code then r.replay.map fun m => { m with copy := some ⟨tag, code, result, data⟩ }
        else r.replay })

/-- A request taken, given its effect, and answered at once. -/
def State.answers (s : State) (p : Port) (tag code : Byte) (payload : List Byte) (result : ResultCode) (data : List Byte)
    (effect : State → State) : State :=
  s.responds p tag code payload result data (effect (s.taken p tag code payload))

/-- A request refused, changing nothing. -/
def State.refuses (s : State) (p : Port) (tag code : Byte) (payload : List Byte) (result : ResultCode) : State :=
  s.answers p tag code payload result [] id

/-- The value bytes a CONFIGURE_STREAM selector calls for (Table 2-3). -/
def valueBytes (selector : Byte) : Nat :=
  (List.range 7).countP (fun n => selector.getLsbD n) + if selector.getLsbD 7 then 2 else 0

/-- The payload has a length that Table 9-2 allows for the request, and for CONFIGURE_STREAM one that agrees with its own selector
(R28, R168). -/
def lengthFits (name : RequestName) (payload : List Byte) : Bool :=
  match name with
  | .detach | .renew | .createPool | .queryDevice => payload.length == 0
  | .attach | .dissolvePool | .claimPool | .closeStream | .claimStream | .joinProducer | .leave | .ackStall | .stopTimer
  | .claimTimer | .queryPort | .queryBuffer => payload.length == 1
  | .setNoticeMask | .retireBuffer | .acquire | .abandon | .signal => payload.length == 2
  | .publish | .joinConsumer | .retuneConsumer | .startTimer => payload.length == 3
  | .registerBuffer => payload.length == 7
  | .openStream => payload.length == 9
  | .configureStream => decide (2 ≤ payload.length) && payload.length == 2 + valueBytes (payload.getD 1 0)
  | .queryPool => payload.length == 1 || payload.length == 2
  | .queryStream => payload.length == 2 || payload.length == 3

/-! ### Whole banks -/

/-- Every buffer record changed, by its number. -/
@[irreducible] def State.mapBuffers (s : State) (f : BufferId → Buffer → Buffer) : State :=
  { s with buffers := Vector.ofFn fun b => f b (s.buffer b) }

/-- Every pool record changed, by its number. -/
@[irreducible] def State.mapPools (s : State) (f : PoolId → Pool → Pool) : State :=
  { s with pools := Vector.ofFn fun k => f k (s.pool k) }

/-- Every stream record changed, by its number. -/
@[irreducible] def State.mapStreams (s : State) (f : StreamId → Stream → Stream) : State :=
  { s with streams := Vector.ofFn fun st => f st (s.stream st) }

/-- Every timer changed, by its number. -/
@[irreducible] def State.mapTimers (s : State) (f : TimerId → Timer → Timer) : State :=
  { s with timers := Vector.ofFn fun t => f t (s.timer t) }

/-! ### The items of a configuration (R26 to R31, Table 2-3) -/

/-- The selector byte that names the given items; the two admit masks are one item. -/
def ConfigItems.selector (c : ConfigItems) : Byte :=
  bit 0 c.pool.isSome ||| bit 1 c.policy.isSome ||| bit 2 c.depth.isSome ||| bit 3 c.quota.isSome |||
    bit 4 c.reserve.isSome ||| bit 5 c.signalLimit.isSome ||| bit 6 c.signaller.isSome ||| bit 7 c.producerMask.isSome

/-- The value bytes of the given items in the order of Table 2-3. -/
def ConfigItems.values (c : ConfigItems) : List Byte :=
  c.pool.toList ++ c.policy.toList ++ c.depth.toList ++ c.quota.toList ++ c.reserve.toList ++ c.signalLimit.toList ++
    c.signaller.toList ++ c.producerMask.toList ++ c.consumerMask.toList

/-- Every given item is in its range; the reserve is judged against the quota the stream would have (R26, R29 check 5). -/
abbrev ConfigItems.Fits (c : ConfigItems) (quota reserve : Nat) : Prop :=
  (∀ b ∈ c.pool, b.toNat ≤ 3) ∧ (∀ b ∈ c.policy, b.toNat ≤ 1) ∧ (∀ b ∈ c.depth, 1 ≤ b.toNat ∧ b.toNat ≤ 8) ∧
    (∀ b ∈ c.quota, 1 ≤ b.toNat ∧ b.toNat ≤ 16) ∧
    (c.quota ≠ none ∨ c.reserve ≠ none →
      (c.reserve.map BitVec.toNat).getD reserve ≤ (c.quota.map BitVec.toNat).getD quota) ∧
    (∀ b ∈ c.producerMask, b.toNat ≤ 15) ∧ (∀ b ∈ c.consumerMask, b.toNat ≤ 15) ∧
    (∀ b ∈ c.signaller, b.toNat ≤ 3 ∨ b = 0xFF)

/-- The stream with the given items at their values. -/
def ConfigItems.configured (c : ConfigItems) (x : Stream) : Stream :=
  { x with
    pool := (c.pool.bind (index? 4)).getD x.pool
    policy := (c.policy.map fun b => if b = 1 then .every else .latest).getD x.policy
    depth := (c.depth.map BitVec.toNat).getD x.depth
    quota := (c.quota.map BitVec.toNat).getD x.quota
    reserve := (c.reserve.map BitVec.toNat).getD x.reserve
    signalLimit := (c.signalLimit.map BitVec.toNat).getD x.signalLimit
    signaller := (c.signaller.map (index? 4)).getD x.signaller
    producerMask := (c.producerMask.map (BitVec.extractLsb' 0 4)).getD x.producerMask
    consumerMask := (c.consumerMask.map (BitVec.extractLsb' 0 4)).getD x.consumerMask }

/-- A pool that the given items name is UNUSED (R26 check 2, R29 check 6). -/
abbrev ConfigItems.poolUnused (c : ConfigItems) (s : State) : Prop := ∃ k ∈ c.pool.bind (index? 4), (s.pool k).state = .unused

/-! ### The first stage of a sweep (R145) -/

/-- The state in which the port's parked ACQUIREs have been discarded: the fields of its streams absent, and those streams gone from
the wait queues of their pools. -/
def State.withoutParked (s : State) (p : Port) : State :=
  (s.mapStreams fun _ x => { x with parked := if x.producer = some p then none else x.parked }).mapPools fun k q =>
    { q with wait := q.wait.diff (allStreams.filter fun st =>
        (s.stream st).producer == some p && (s.stream st).parked.isSome && (s.stream st).pool == k) }

/-! ### Invariants of a port record -/

/-- What holds of a port record in every state (Table 7-1, Table 8-1, R118, R123, R126, R128, R133, R138, R145). -/
structure PortRecord.Sound (r : PortRecord) : Prop where
  notices : r.notices.length ≤ 16
  lost : r.lost ≤ 255
  lostFull : r.lost ≠ 0 → r.notices.length = 16
  mask : r.mask &&& ~~~maskableKinds = 0
  interval : r.leaseInterval ≠ 0
  lease : r.leaseRemaining.isSome = true ↔ r.state = .attached
  sweep : r.sweep.isSome = true ↔ r.state = .lapsing
  unattached : r.state ≠ .attached → r.notices = [] ∧ r.lost = 0 ∧ r.replay = none

/-- Every port record is sound. -/
def PortsSound (s : State) : Prop := ∀ p, (s.port p).Sound

/-! ### Invariants of a stream record -/

/-- What holds of a stream record in every state (Table 2-1, Table 2-2, R21, R23, R39, R48, R62, R63, R96, R109). -/
structure Stream.Sound (x : Stream) : Prop where
  closed : x.state = .closed → x = Stream.cleared
  depth : 1 ≤ x.depth ∧ x.depth ≤ 8
  quota : 1 ≤ x.quota ∧ x.quota ≤ 16
  reserve : x.reserve ≤ x.quota
  list : x.list.length ≤ x.depth
  producer : x.producer.isSome = true → x.state = .live ∨ x.state = .draining
  live : x.state = .live → x.producer.isSome = true
  draining : x.state = .draining → x.list = []
  repeats : ∀ c, (x.slot c).repeats ≤ 255
  /-- The entries that a slot has passed are an unbroken run at the head of the list: none stands behind one not passed (R96). -/
  passed : ∀ c, x.list.Pairwise fun d e => e.passed.has c = true → d.passed.has c = true
  /-- An unoccupied slot stands in no passed set (R63, R96). -/
  unoccupied : ∀ c, (x.slot c).occupied = false → ∀ e ∈ x.list, e.passed.has c = false

/-- Every stream record is sound. -/
def StreamsSound (s : State) : Prop := ∀ st, (s.stream st).Sound

/-! ### The request window (R157) -/

/-- Port `p` has its ACQUIRE parked in stream `st`. -/
def State.isParked (s : State) (p : Port) (st : StreamId) : Bool :=
  (s.stream st).producer == some p && (s.stream st).parked.isSome

/-- The parked requests of a port that count in its window. -/
def State.parkedCount (s : State) (p : Port) : Nat := allStreams.countP (s.isParked p)

/-- The request window is the number of responses queued and requests parked, never above 4 (R157), a LAPSING port's
is 0 and its response queue empty (R145), and a stream with a parked ACQUIRE has a producer whose port is ATTACHED (R48, R145). -/
structure WindowsSound (s : State) : Prop where
  ports : PortsSound s
  window : ∀ p, (s.port p).state ≠ .lapsing → (s.port p).window = (s.port p).responses.length + s.parkedCount p
  small : ∀ p, (s.port p).window ≤ 4
  lapsing : ∀ p, (s.port p).state = .lapsing → (s.port p).responses = [] ∧ (s.port p).window = 0
  parked : ∀ st, (s.stream st).parked.isSome = true → ∃ p, (s.stream st).producer = some p ∧ (s.port p).state = .attached

/-! ### Buffers, free lists, bindings and timers -/

/-- The buffer `b` is current in slot `c` of stream `st`. -/
def State.shows (s : State) (st : StreamId) (c : SlotId) (b : BufferId) : Bool :=
  ((s.stream st).slot c).current == some b

/-- The buffer stands in the pending list of the stream. -/
def State.listed (s : State) (st : StreamId) (b : BufferId) : Bool := (s.stream st).list.any fun e => e.buffer == b

/-- The claims of consumer slots of a stream on a buffer. -/
def State.claims (s : State) (st : StreamId) (b : BufferId) : Nat := allSlots.countP fun c => s.shows st c b

/-- What holds of the buffer table, the pools and the streams together, and of the timers (R4, R5, R6, R7, R10, R11, R12, R22, R24, R48,
R87, R94, R95). -/
structure TablesSound (s : State) : Prop where
  /-- A buffer is on a pool's free list exactly when it is FREE in that pool (R4, R11). -/
  free : ∀ k b, b ∈ (s.pool k).free ↔ (s.buffer b).state = .free ∧ (s.buffer b).pool = some k
  /-- No free list holds an index twice (R11). -/
  freeOnce : ∀ k, (s.pool k).free.Nodup
  /-- A VACANT record belongs to no pool, and every other record to an ACTIVE one (R4, R10). -/
  pool : ∀ b, (s.buffer b).pool = none ↔ (s.buffer b).state = .vacant
  active : ∀ b k, (s.buffer b).pool = some k → (s.pool k).state = .active
  /-- A record is bound exactly when it is FILLING, PUBLISHED or HELD (R4, R22). -/
  bound : ∀ b, (s.buffer b).stream.isSome = true ↔ (s.buffer b).state.inUse = true
  /-- A bound buffer is of the pool that its stream, which is not CLOSED, names (R11, R14). -/
  named : ∀ b st, (s.buffer b).stream = some st →
    (s.buffer b).pool = some (s.stream st).pool ∧ (s.stream st).state ≠ .closed
  /-- A stream that is not CLOSED names an ACTIVE pool (R10). -/
  names : ∀ st, (s.stream st).state ≠ .closed → (s.pool (s.stream st).pool).state = .active
  /-- The retiring mark stands on buffers in use alone (R19). -/
  retiring : ∀ b, (s.buffer b).retiring = true → (s.buffer b).state.inUse = true
  /-- The registered count is the number of records of the pool (R12). -/
  registered : ∀ k, (s.pool k).registered = allBuffers.countP fun b => (s.buffer b).pool == some k
  /-- A buffer is PUBLISHED in a stream exactly when it stands in that stream's pending list (R6). -/
  published : ∀ b st, s.listed st b = true ↔ (s.buffer b).state = .published ∧ (s.buffer b).stream = some st
  /-- It stands there once (R6). -/
  listedOnce : ∀ st, ((s.stream st).list.map Entry.buffer).Nodup
  /-- The hold count is the number of slots of the stream that show the buffer (R7, R94). -/
  holds : ∀ b st, (s.buffer b).stream = some st → (s.buffer b).holds = s.claims st b
  unbound : ∀ b, (s.buffer b).stream = none → (s.buffer b).holds = 0
  /-- A current buffer is bound to the slot's stream, PUBLISHED or HELD (R95). -/
  current : ∀ b st c, s.shows st c b = true →
    (s.buffer b).stream = some st ∧ ((s.buffer b).state = .published ∨ (s.buffer b).state = .held) ∧
      ((s.stream st).slot c).occupied = true
  /-- A HELD buffer is held (R6). -/
  held : ∀ b, (s.buffer b).state = .held → (s.buffer b).holds ≠ 0
  /-- A FILLING buffer's stream has a producer (R59). -/
  filling : ∀ b st, (s.buffer b).state = .filling → (s.buffer b).stream = some st →
    (s.stream st).producer.isSome = true
  /-- A wait queue holds the streams of the pool with a parked ACQUIRE, each once (R48). -/
  wait : ∀ k st, st ∈ (s.pool k).wait ↔ (s.stream st).pool = k ∧ (s.stream st).parked.isSome = true
  waitOnce : ∀ k, (s.pool k).wait.Nodup
  /-- An unsignalled entry carries no hold and no slot has shown it (R63, R64). -/
  unsignalled : ∀ st e, e ∈ (s.stream st).list → e.signalled = false → (s.buffer e.buffer).holds = 0
  /-- No port holds two roles in one stream (R24). -/
  roles : ∀ st c p, ((s.stream st).slot c).occupied = true → ((s.stream st).slot c).port = some p →
    (s.stream st).producer ≠ some p
  slotsOnce : ∀ st c d p, ((s.stream st).slot c).occupied = true → ((s.stream st).slot d).occupied = true →
    ((s.stream st).slot c).port = some p → ((s.stream st).slot d).port = some p → c = d
  /-- A timer has a remaining time exactly while RUNNING, and a period of at least 1 (R87). -/
  timer : ∀ i, (s.timer i).remaining.isSome = true ↔ (s.timer i).state = .running
  period : ∀ i, (s.timer i).period ≠ 0

end Sys2Proof.Machine
end

