-- ==== Sys2Proof/Certificates/Slice0/Obligations.lean ====
section
/-!
DEFINITION. The statements about the model, one definition each. A request is named by its row and its code byte of Table 10-5; `takes`,
`answers`, `refuses` and the invariants are those of Safety.lean.
-/

open Sys2Proof Sys2Proof.Machine

/-! ### The queue of commands -/

/-- The command at the front of the queue is executed on the state with the queue's rest. -/
def Obligations.StepRunsFrontCommand : Prop :=
  ∀ (c : Instr) (rest : List Instr) (s : State), s.pending = c :: rest → step s = exec c { s with pending := rest }

/-- On an empty queue the part goes on by itself: nothing happens in reset, recovery ends, events that are due at once are queued, and
otherwise 100 µs pass: every remaining time falls by one unit, and the expiries whose time has run out are queued. The unit of time and
the order of the rows are the model's choice: log entries 3 and 5. -/
def Obligations.StepOnEmptyQueueIdles : Prop :=
  ∀ s : State, s.pending = [] →
    let due : List Instr := (s.addressed.map fun a => .boundary a.1 a.2) ++ (List.finRange 4).flatMap fun p =>
      match (s.port p).state, (s.port p).sweep with
      | .lapsing, some ⟨.stream st, _⟩ => [.streamStep p st]
      | .lapsing, some ⟨.thirdStage, _⟩ => [.sweepThirdStage p]
      | .lapsing, some ⟨.fourthStage, _⟩ => [.sweepFourthStage p]
      | _, _ => []
    (s.phase = .resetting → step s = .next s) ∧
    (s.phase = .recovering → step s = .next { s with pending := [.recoveryEnd] }) ∧
    (s.phase = .serving → due ≠ [] → step s = .next { s with pending := due }) ∧
    (s.phase = .serving → due = [] → ∃ t, step s = .next t ∧
      t = { s with timers := t.timers, streams := t.streams, ports := t.ports, pending := t.pending } ∧
      (∀ i, t.timer i = { s.timer i with remaining := (s.timer i).remaining.map fun n => n - 1 }) ∧
      (∀ st, t.stream st = { s.stream st with
        parked := (s.stream st).parked.map fun k => { k with remaining := k.remaining - 1 }
        list := (s.stream st).list.map fun e => { e with deadline := e.deadline.map fun n => n - 1 } }) ∧
      (∀ p, t.port p = { s.port p with leaseRemaining := (s.port p).leaseRemaining.map fun n => n - 1 }) ∧
      t.pending = (((List.finRange 4).filter fun i => (t.timer i).remaining == some 0).map Instr.timerExpiry) ++
        ((List.finRange 16).flatMap fun st =>
          (if (t.stream st).parked.map Parked.remaining = some 0 then [.acquireWaitExpiry st] else []) ++
            ((t.stream st).list.filter fun e => e.deadline == some 0).map fun e => .signalExpiry st e.buffer) ++
        ((List.finRange 4).filter fun p => (t.port p).leaseRemaining == some 0).map Instr.leaseExpiry)

/-! ### Reset (R183, R184) -/

/-- A device reset, from whatever state, gives every record its device-reset value, judges and queues nothing, and makes ATN_N high. By
the pin RESET_N is low and the supplies stay as they were; at power-up the supplies are not yet within limits and RESET_N has the row's
level (R183, R184). The two inputs as fields, and what else stays, are the model's choice (log 20, log 21). -/
def Obligations.DeviceResetClearsRecords : Prop :=
  ∀ (cause : ResetCause) (s : State), ∃ t, exec (.deviceReset cause) s = .next t ∧
    (∀ b, t.buffer b = { state := .vacant, pool := none, handle := 0, layout := 0, generation := 0, stream := none,
                         holds := 0, retiring := false }) ∧
    (∀ k, t.pool k = { state := .unused, owner := none, free := [], registered := 0, wait := [] }) ∧
    (∀ st, t.stream st = Stream.cleared) ∧
    (∀ p, t.port p =
      { state := .detached, session := 0, leaseInterval := 1, leaseRemaining := none, window := 0, responses := [],
        replay := none, notices := [], lost := 0, mask := 0x03E6, lastFrame := .none, framesTaken := 0, frameErrors := 0,
        noticesLost := 0, bnd := .low, sweep := none, shifted := none,
        select := if (s.port p).select = .high then .high else .void }) ∧
    (∀ p, t.atn p = .high) ∧ t.addressed = [] ∧ t.phase = .resetting ∧
    (cause = .pin → t.resetN = .low ∧ t.supplies = s.supplies) ∧
    (∀ level, cause = .powerUp level → t.resetN = level ∧ t.supplies = false) ∧
    t.choices = s.choices ∧ t.pending = s.pending

/-- Table 5-1: the timers after a device reset. -/
def Obligations.DeviceResetStopsTimers : Prop :=
  ∀ (cause : ResetCause) (s : State), ∃ t, exec (.deviceReset cause) s = .next t ∧
    ∀ i, t.timer i = { state := .stopped, owner := none, period := 1, remaining := none }

/-- The reset lasts until RESET_N is high and the supplies are good; the recovery interval follows, and the part serves at its end (R184;
log 20). Rows that end a reset or an interval not under way begin nothing (log 6). ATN_N is low exactly while the part serves and a queue of
the port holds a record (R132). -/
def Obligations.ResetEndsThroughRecovery : Prop :=
  ∀ s : State,
    (s.phase = .resetting → s.supplies = true → ∃ t, exec .resetRelease s = .next t ∧
      t = { s with resetN := .high, phase := .recovering, ports := t.ports } ∧
      ∀ p, t.port p = { s.port p with bnd := .low }) ∧
    (s.phase = .resetting → s.supplies = false → exec .resetRelease s = .next { s with resetN := .high }) ∧
    (s.phase = .resetting → s.resetN = .high → ∃ t, exec .powerUpEnd s = .next t ∧
      t = { s with supplies := true, phase := .recovering, ports := t.ports } ∧
      ∀ p, t.port p = { s.port p with bnd := .low }) ∧
    (s.phase = .resetting → s.resetN = .low → exec .powerUpEnd s = .next { s with supplies := true }) ∧
    (s.phase = .recovering → exec .recoveryEnd s = .next { s with phase := .serving }) ∧
    (s.phase ≠ .resetting → exec .resetRelease s = .next { s with resetN := .high } ∧
      exec .powerUpEnd s = .next { s with supplies := true }) ∧
    (s.phase ≠ .recovering → exec .recoveryEnd s = .next s) ∧
    (∀ p, s.phase ≠ .serving → s.atn p = .high) ∧
    (∀ p, s.phase = .serving → (s.atn p = .low ↔ (s.port p).responses ≠ [] ∨ (s.port p).notices ≠ []))

/-- A pulse on RESET_N and the recovery interval bring every state with good supplies and no open transaction to the reset state. -/
def Obligations.ResetPulseGivesResetState : Prop :=
  ∀ s : State, s.supplies = true → (∀ p, (s.port p).select = .high) →
    ∃ t u, exec (.deviceReset .pin) s = .next t ∧ exec .resetRelease t = .next u ∧
      exec .recoveryEnd u = .next { State.reset with choices := s.choices, pending := s.pending }

/-! ### The link: windows, frames, judgement -/

/-- A window that the port does not serve: nothing is judged, recorded, counted, fetched or renewed. -/
def Obligations.VoidWindowChangesNothing : Prop :=
  ∀ (s : State) (p : Port), s.serves p = false →
    (∀ name tag payload, exec (requestRow name p tag payload) s =
      .next (s.modPort p fun r => { r with select := .high, shifted := none })) ∧
    (∀ bytes, exec (.send p bytes) s = .next (s.modPort p fun r => { r with select := .high, shifted := none })) ∧
    (∀ n, exec (.status p n) s = .next (s.modPort p fun r => { r with select := .high, shifted := none })) ∧
    (∀ n, exec (.fetchResponse p n) s = .next (s.modPort p fun r => { r with select := .high, shifted := none })) ∧
    (∀ n, exec (.fetchNotice p n) s = .next (s.modPort p fun r => { r with select := .high, shifted := none })) ∧
    (∀ first more, exec (.badTransaction p first more) s =
      .next (s.modPort p fun r => { r with select := .high, shifted := none }))

/-- At the fall of select the port fixes its status byte, bit by bit (Table 10-2, Table 10-3), and the records a fetch would present; a
fall that comes too soon or outside service opens a window in which nothing counts (log 9). Where a window is open already the new one
takes its place: the model's choice (log 8). -/
def Obligations.FallOfSelectFixesWindow : Prop :=
  ∀ (s : State) (p : Port),
    (s.phase = .serving → ∃ v : Byte,
      exec (.fallOfSelect p false) s = .next (s.modPort p fun r =>
        { r with select := .low { status := v, response := r.responses.head?, notice := r.notices.head? } }) ∧
      (v.getLsbD 7 = true ↔ (s.port p).state = .attached) ∧
      (v.getLsbD 6 = true ↔ (s.port p).state = .lapsing) ∧
      (v.getLsbD 5 = true ↔ (s.port p).responses ≠ []) ∧
      (v.getLsbD 4 = true ↔ (s.port p).notices ≠ []) ∧
      v &&& 0x0F = (s.port p).lastFrame.code) ∧
    [FrameResult.none, .taken, .replayed, .duplicateDropped, .windowFull, .crcError, .lengthError, .truncated, .notAttached,
      .resetting, .badTransaction].map FrameResult.code = [0, 1, 2, 3, 4, 5, 6, 7, 8, 9, 10] ∧
    (∀ tooSoon, tooSoon = true ∨ s.phase ≠ .serving →
      exec (.fallOfSelect p tooSoon) s = .next (s.modPort p fun r => { r with select := .void }))

/-- SEND windows that are not well formed: the first case of R177 that applies is recorded and counted, and nothing else changes.
That LENGTH_ERROR is recorded at the end of the window is the model's choice (log 10). -/
def Obligations.LinkRejectsMalformedFrames : Prop :=
  ∀ (s : State) (p : Port), s.serves p = true →
    (∀ (len : Byte) (rest : List Byte), 32 < len.toNat →
      exec (.send p (len :: rest)) s = .next
        ((s.modPort p fun r => { r with lastFrame := .lengthError, frameErrors := r.frameErrors + 1 }).shuts p
          (s.shiftsOut p (rest.length + 1)))) ∧
    (exec (.send p []) s = .next
        ((s.modPort p fun r => { r with lastFrame := .truncated, frameErrors := r.frameErrors + 1 }).shuts p
          (s.shiftsOut p 0))) ∧
    (∀ (len : Byte) (rest : List Byte), len.toNat ≤ 32 → rest.length < len.toNat + 3 →
      exec (.send p (len :: rest)) s = .next
        ((s.modPort p fun r => { r with lastFrame := .truncated, frameErrors := r.frameErrors + 1 }).shuts p
          (s.shiftsOut p (rest.length + 1)))) ∧
    (∀ (tag code check : Byte) (payload extra : List Byte), payload.length ≤ 32 → check ≠ frameCrc tag code payload →
      exec (.send p (byte payload.length :: tag :: code :: (payload ++ check :: extra))) s = .next
        ((s.modPort p fun r => { r with lastFrame := .crcError, frameErrors := r.frameErrors + 1 }).shuts p
          (s.shiftsOut p (payload.length + 4 + extra.length))))

/-- A SEND window whose bytes are the frame of a request is that request's row; both answer a next state in every state of the part. -/
def Obligations.SendOfFrameIsRequest : Prop :=
  ∀ (name : RequestName) (p : Port) (tag : Byte) (payload : List Byte) (s : State), payload.length ≤ 32 →
    ∃ t, exec (.send p (frameBytes tag (codeOf name) payload)) s = .next t ∧ exec (requestRow name p tag payload) s = .next t

/-- A frame round-trips through the link, whatever is clocked after it, and its code names the request. -/
def Obligations.FrameRoundTrips : Prop :=
  (∀ (tag code : Byte) (payload extra : List Byte), payload.length ≤ 32 →
    judgeBytes (frameBytes tag code payload ++ extra) = .wellFormed tag code payload (frameCrc tag code payload)) ∧
  ∀ name : RequestName, requestOfCode (codeOf name) = some name

/-- The CRC of R178: the initial value, the eight shifts of each byte, and the worked frame of chapter 10; and it tells apart two byte
sequences that differ in one byte. -/
def Obligations.CrcFollowsPolynomial : Prop :=
  crc8 [] = 0xFF ∧
  (∀ (bs : List Byte) (b : Byte), crc8 (bs ++ [b]) =
    (fun v : Byte => if v.getLsbD 7 then (v <<< 1) ^^^ 0x07 else v <<< 1)^[8] (crc8 bs ^^^ b)) ∧
  frameCrc 0x05 0x12 [] = 0x14 ∧
  ∀ (before after : List Byte) (a b : Byte), crc8 (before ++ a :: after) = crc8 (before ++ b :: after) → a = b

/-- The judgement of a well-formed frame at the rise of select, in its order (R155), with replays (R164) and drops (R165).
That ATTACH and QUERY_DEVICE are taken from a DETACHED port also where the session ended within the window is the model's choice
(log 28). -/
def Obligations.EngineJudgesFrames : Prop :=
  ∀ (s : State) (p : Port) (name : RequestName) (tag : Byte) (payload : List Byte),
    s.serves p = true → payload.length ≤ 32 →
    ((s.port p).state = .lapsing →
      exec (requestRow name p tag payload) s = .next
        (s.sends p payload (s.modPort p fun r => { r with lastFrame := .resetting }))) ∧
    ((s.port p).state = .detached → name ≠ .attach → name ≠ .queryDevice →
      exec (requestRow name p tag payload) s = .next
        (s.sends p payload (s.modPort p fun r => { r with lastFrame := .notAttached }))) ∧
    (∀ m, (s.port p).state = .attached → (s.port p).replay = some m → tag ≠ 0 → m.tag = tag → m.code = codeOf name →
      m.check = frameCrc tag (codeOf name) payload →
      (m.copy = none → exec (requestRow name p tag payload) s = .next
        (s.sends p payload (s.modPort p fun r => { r with lastFrame := .duplicateDropped }))) ∧
      (∀ c, m.copy = some c → (s.port p).window = 4 → exec (requestRow name p tag payload) s = .next
        (s.sends p payload (s.modPort p fun r => { r with lastFrame := .windowFull }))) ∧
      (∀ c, m.copy = some c → (s.port p).window < 4 → exec (requestRow name p tag payload) s = .next
        (s.sends p payload (s.modPort p fun r =>
          { r with lastFrame := .replayed, framesTaken := r.framesTaken + 1, window := r.window + 1,
                   responses := r.responses ++ [c] })))) ∧
    ((s.port p).state = .attached →
      (s.port p).matchesReplay tag (codeOf name) (frameCrc tag (codeOf name) payload) = false → (s.port p).window = 4 →
      exec (requestRow name p tag payload) s = .next
        (s.sends p payload (s.modPort p fun r => { r with lastFrame := .windowFull }))) ∧
    ((s.port p).state = .detached → (name = .attach ∨ name = .queryDevice) → (s.port p).window = 4 →
      exec (requestRow name p tag payload) s = .next
        (s.sends p payload (s.modPort p fun r => { r with lastFrame := .windowFull }))) ∧
    (s.takes p tag (codeOf name) payload = true ∨ s.takesDetached p (codeOf name) payload = true →
      ∃ t, exec (requestRow name p tag payload) s = .next t ∧ (t.port p).lastFrame = .taken)

/-- Requests that do not fit the catalogue are refused UNKNOWN (R168). That an ATTACH of a wrong length leaves the replay record is the
model's reading (log 14), and that LENGTH_ERROR is recorded at the end of the window its choice (log 10). -/
def Obligations.MalformedRequestsRefusedUnknown : Prop :=
  ∀ (s : State) (p : Port) (tag : Byte) (payload : List Byte),
    (∀ code, (∀ name, codeOf name ≠ code) → s.takes p tag code payload = true →
      exec (.send p (frameBytes tag code payload)) s = .next (s.refuses p tag code payload .unknown)) ∧
    (∀ code, (∀ name, codeOf name ≠ code) → s.serves p = true → (s.port p).state = .detached → payload.length ≤ 32 →
      exec (.send p (frameBytes tag code payload)) s = .next
        (s.sends p payload (s.modPort p fun r => { r with lastFrame := .notAttached }))) ∧
    (∀ name, s.takes p tag (codeOf name) payload = true → lengthFits name payload = false →
      exec (requestRow name p tag payload) s = .next (s.refuses p tag (codeOf name) payload .unknown)) ∧
    (∀ name, s.takesDetached p (codeOf name) payload = true → lengthFits name payload = false →
      exec (requestRow name p tag payload) s = .next (s.refuses p tag (codeOf name) payload .unknown)) ∧
    (∀ name, s.serves p = true → 32 < payload.length →
      exec (requestRow name p tag payload) s = .next
        ((s.modPort p fun r => { r with lastFrame := .lengthError, frameErrors := r.frameErrors + 1 }).shuts p
          (s.shiftsOut p (payload.length + 4))))

/-- The first byte of a window decides what the window is (R175, Table 10-1): a STATUS, a SEND, a fetch, or an unknown transaction. STATUS
renews the lease of an ATTACHED port and changes nothing else; an unknown first byte is recorded and counted and renews nothing. That the
row of unknown bytes takes every window by its bytes is the model's reading (log 30), that it records at the end of the window the model's
choice (log 10). -/
def Obligations.StatusAndUnknownTransactions : Prop :=
  ∀ (s : State) (p : Port),
    (∀ more, exec (.badTransaction p 0x01 more) s = exec (.status p more.length) s ∧
      exec (.badTransaction p 0x02 more) s = exec (.send p more) s ∧
      exec (.badTransaction p 0x03 more) s = exec (.fetchResponse p more.length) s ∧
      exec (.badTransaction p 0x04 more) s = exec (.fetchNotice p more.length) s) ∧
    (s.serves p = true → (∀ n, exec (.status p n) s = .next (s.closes p (s.shiftsOut p n))) ∧
      ∀ (first : Byte) (more : List Byte), first ∉ [0x01, 0x02, 0x03, 0x04] →
        exec (.badTransaction p first more) s = .next
          ((s.modPort p fun r => { r with lastFrame := .badTransaction, frameErrors := r.frameErrors + 1 }).shuts p
            (s.shiftsOut p more.length)))

/-- FETCH_RESPONSE: the record fixed at the fall of select is shifted out; a complete fetch removes it if it is still the head, and
lowers the window; a partial fetch removes nothing (R161, R180). The record is laid out as Table 10-7a says, with its result codes. -/
def Obligations.FetchResponseRemovesPresentedHead : Prop :=
  ∀ (s : State) (p : Port) (n : Nat), s.serves p = true →
    ∃ out : List Byte,
      out = (s.window p).status :: ((match (s.window p).response with
        | some r => (r.tag :: r.code :: r.result.code :: (r.data ++ List.replicate 21 0)).take 24
        | none => 0 :: 0 :: 0xFF :: List.replicate 21 0) ++ List.replicate n 0xFF).take n ∧
      [ResultCode.ok, .denied, .noSuch, .badState, .stale, .range, .full, .quota, .exhausted, .timeout, .cancelled, .closed,
        .alreadyWaiting, .noSlot, .unknown].map ResultCode.code = [0, 1, 2, 3, 4, 5, 6, 7, 8, 9, 10, 11, 12, 13, 14] ∧
      (n < 24 → exec (.fetchResponse p n) s = .next (s.shuts p out)) ∧
      (∀ x rest, 24 ≤ n → (s.window p).response = some x → (s.port p).responses = x :: rest →
        exec (.fetchResponse p n) s = .next
          ((s.modPort p fun r => { r with responses := rest, window := r.window - 1 }).closes p out)) ∧
      (24 ≤ n → (s.window p).response = none ∨ (s.port p).responses = [] →
        exec (.fetchResponse p n) s = .next (s.closes p out))

/-- FETCH_NOTICE: as FETCH_RESPONSE, and a nonzero lost count is reported by OVERFLOW at the tail (R125 to R127, R180). The record is laid
out as Table 10-8a says. -/
def Obligations.FetchNoticeRemovesHeadAndReportsOverflow : Prop :=
  let two := fun v : Half => [v.extractLsb' 8 8, v.extractLsb' 0 8]
  let four := fun v : Handle => [v.extractLsb' 24 8, v.extractLsb' 16 8, v.extractLsb' 8 8, v.extractLsb' 0 8]
  let fields : Notice → List Byte := fun
    | .flip st c b g handle layout q skipped =>
      [1, byte st.val, byte c.val, byte b.val, g] ++ four handle ++ two layout ++ two q ++ [byte skipped]
    | .stall st c b g q repeats threshold =>
      [2, byte st.val, byte c.val, byte b.val, g] ++ two q ++ [byte repeats, byte threshold]
    | .recycled st b g => [3, byte st.val, byte b.val, g]
    | .dropped st b g q => [4, byte st.val, byte b.val, g] ++ two q
    | .signalExpired st b g q => [5, byte st.val, byte b.val, g] ++ two q
    | .memberLost st port .producer session => [6, byte st.val, byte port.val, 0, session]
    | .memberLost st port (.consumer c) session => [6, byte st.val, byte port.val, byte (c.val + 1), session]
    | .ownerLost st port session => [7, byte st.val, byte port.val, session]
    | .streamClosing st outstanding => [8, byte st.val, byte outstanding]
    | .streamClosed st published flips dropped expired =>
      [9, byte st.val] ++ two published ++ two flips ++ two dropped ++ two expired
    | .overflow lost => [10, byte lost]
  ∀ (s : State) (p : Port) (n : Nat), s.serves p = true →
    ∃ out : List Byte,
      out = (s.window p).status :: ((match (s.window p).notice with
        | some r => fields r ++ List.replicate (24 - (fields r).length) 0
        | none => List.replicate 24 0) ++ List.replicate n 0xFF).take n ∧
      (n < 24 → exec (.fetchNotice p n) s = .next (s.shuts p out)) ∧
      (∀ x rest, 24 ≤ n → (s.window p).notice = some x → (s.port p).notices = x :: rest →
        ((s.port p).lost = 0 → exec (.fetchNotice p n) s = .next
          ((s.modPort p fun r => { r with notices := rest }).closes p out)) ∧
        ((s.port p).lost ≠ 0 → exec (.fetchNotice p n) s = .next
          ((s.modPort p fun r => { r with notices := rest ++ [.overflow (s.port p).lost], lost := 0 }).closes p out))) ∧
      (24 ≤ n → (s.window p).notice = none ∨ (s.port p).notices = [] →
        exec (.fetchNotice p n) s = .next (s.closes p out))

/-- Disposal of a notice at queuing: the first case of Table 7-4 that applies. -/
def Obligations.NoticeQueuedDiscardedOrLost : Prop :=
  ∀ (s : State) (p : Port) (n : Notice),
    ((s.port p).state ≠ .attached → queueNotice p n s = s) ∧
    ((s.port p).state = .attached → (s.port p).mask.getLsbD n.kind = false → queueNotice p n s = s) ∧
    ((s.port p).state = .attached → (s.port p).mask.getLsbD n.kind = true → (s.port p).notices.length < 16 →
      queueNotice p n s = s.modPort p fun r => { r with notices := r.notices ++ [n] }) ∧
    ((s.port p).state = .attached → (s.port p).mask.getLsbD n.kind = true → 16 ≤ (s.port p).notices.length →
      queueNotice p n s =
        s.modPort p fun r => { r with lost := min 255 (r.lost + 1), noticesLost := r.noticesLost + 1 })

/-! ### Sessions and leases (spec/08_sessions_and_leases.md), the notice mask (R122) -/

/-- ATTACH from a DETACHED port: refused RANGE for an interval of 0, else the session opens with every field of the port record as R135
and Table 8-1 give it. -/
def Obligations.AttachOpensSession : Prop :=
  ∀ (s : State) (p : Port) (tag lease : Byte), s.takesDetached p 0x10 [lease] = true →
    (lease = 0 → exec (.attach p tag [lease]) s = .next (s.refuses p tag 0x10 [lease] .range)) ∧
    (lease ≠ 0 → exec (.attach p tag [lease]) s = .next (s.modPort p fun r =>
      { state := .attached, session := r.session + 1, leaseInterval := lease,
        leaseRemaining := some (lease.toNat * 100), window := 1,
        responses := [⟨tag, 0x10, .ok, [byte p.val, r.session + 1, lease, 4, 64, 4, 16, 3, 4, 16]⟩],
        replay := none, notices := [], lost := 0, mask := 0x03E6, lastFrame := .taken, framesTaken := 0,
        frameErrors := 0, noticesLost := 0, bnd := r.bnd, sweep := r.sweep, select := .high,
        shifted := some (s.shiftsOut p 5) }))

/-- ATTACH from an ATTACHED port is refused BAD_STATE with the session and the interval, whatever its own interval; from a LAPSING port
it is rejected RESETTING and receives no response. -/
def Obligations.AttachOfAttachedPortRefused : Prop :=
  ∀ (s : State) (p : Port) (tag lease : Byte),
    (s.takes p tag 0x10 [lease] = true → exec (.attach p tag [lease]) s =
      .next (s.answers p tag 0x10 [lease] .badState [(s.port p).session, (s.port p).leaseInterval] id)) ∧
    (s.serves p = true → (s.port p).state = .lapsing → exec (.attach p tag [lease]) s =
      .next (s.sends p [lease] (s.modPort p fun r => { r with lastFrame := .resetting })))

/-- A DETACH that is taken, and the expiry of an ATTACHED port's lease, begin the sweep with its first stage; the DETACH gets no
response yet. A lease expiry of a port that is not ATTACHED, or before the interval has elapsed, changes nothing (log 4, log 6); so a
renewal taken first leaves no expiry to occur (R143). -/
def Obligations.SweepBeginsAtDetachOrLeaseExpiry : Prop :=
  ∀ (s : State) (p : Port) (tag : Byte),
    (s.takes p tag 0x11 [] = true → exec (.detach p tag []) s = .next ((s.withoutParked p).modPort p fun r =>
      { r with state := .lapsing, leaseRemaining := none, responses := [], window := 0, replay := none, notices := [],
               lost := 0, sweep := some ⟨.stream 0, some tag⟩, lastFrame := .taken, framesTaken := r.framesTaken + 1,
               select := .high, shifted := some (s.shiftsOut p 4) })) ∧
    ((s.port p).state = .attached → (s.port p).leaseRemaining = some 0 →
      exec (.leaseExpiry p) s = .next ((s.withoutParked p).modPort p fun r =>
        { r with state := .lapsing, leaseRemaining := none, responses := [], window := 0, replay := none, notices := [],
                 lost := 0, sweep := some ⟨.stream 0, none⟩ })) ∧
    ((s.port p).state ≠ .attached ∨ (s.port p).leaseRemaining ≠ some 0 → exec (.leaseExpiry p) s = .next s) ∧
    (s.serves p = true → (s.port p).state = .attached → (s.port p).leaseInterval ≠ 0 → ∀ n,
      ∃ t, exec (.status p n) s = .next t ∧ exec (.leaseExpiry p) t = .next t)

/-- RENEW answers the session number and the lease interval, and its frame renews the lease. -/
def Obligations.RenewAnswersSession : Prop :=
  ∀ (s : State) (p : Port) (tag : Byte), s.takes p tag 0x12 [] = true →
    exec (.renew p tag []) s =
        .next (s.answers p tag 0x12 [] .ok [(s.port p).session, (s.port p).leaseInterval] id) ∧
      ((s.answers p tag 0x12 [] .ok [(s.port p).session, (s.port p).leaseInterval] id).port p).leaseRemaining =
        some ((s.port p).leaseInterval.toNat * 100)

/-- SET_NOTICE_MASK: RANGE for a bit outside bits 1 to 9, else the new mask, and the old one in the answer. -/
def Obligations.SetNoticeMaskReplacesMask : Prop :=
  ∀ (s : State) (p : Port) (tag hi lo : Byte), s.takes p tag 0x13 [hi, lo] = true →
    exec (.setNoticeMask p tag [hi, lo]) s = .next (
      if ∃ i : Fin 16, (hi ++ lo : Half).getLsbD i.val = true ∧ ¬(1 ≤ i.val ∧ i.val ≤ 9) then
        s.refuses p tag 0x13 [hi, lo] .range
      else s.answers p tag 0x13 [hi, lo] .ok
        [(s.port p).mask.extractLsb' 8 8, (s.port p).mask.extractLsb' 0 8]
        fun t => t.modPort p fun r => { r with mask := hi ++ lo })

/-! ### Pools and registrations (spec/01_buffers_and_pools.md) -/

/-- CREATE_POOL takes the lowest-numbered UNUSED pool; NO_SLOT when there is none. -/
def Obligations.CreatePoolTakesLowestUnused : Prop :=
  ∀ (s : State) (p : Port) (tag : Byte), s.takes p tag 0x20 [] = true →
    (∀ k, (s.pool k).state = .unused → (∀ j, j < k → (s.pool j).state ≠ .unused) →
      exec (.createPool p tag []) s = .next (s.answers p tag 0x20 [] .ok [byte k.val] fun t =>
        t.modPool k fun _ => { state := .active, owner := some p, free := [], registered := 0, wait := [] })) ∧
    ((∀ k, (s.pool k).state ≠ .unused) →
      exec (.createPool p tag []) s = .next (s.refuses p tag 0x20 [] .noSlot))

/-- DISSOLVE_POOL: the four checks, then every buffer of the free list VACANT with its generation kept, and the pool UNUSED. -/
def Obligations.DissolvePoolVacatesFreeList : Prop :=
  ∀ (s : State) (p : Port) (tag : Byte),
    (∀ n : Byte, 3 < n.toNat → s.takes p tag 0x21 [n] = true →
      exec (.dissolvePool p tag [n]) s = .next (s.refuses p tag 0x21 [n] .range)) ∧
    ∀ k : PoolId, s.takes p tag 0x21 [byte k.val] = true →
      exec (.dissolvePool p tag [byte k.val]) s = .next (
        if (s.pool k).state = .unused then s.refuses p tag 0x21 [byte k.val] .noSuch
        else if (s.pool k).owner ≠ some p then s.refuses p tag 0x21 [byte k.val] .denied
        else if ∃ st, (s.stream st).state ≠ .closed ∧ (s.stream st).pool = k then
          s.refuses p tag 0x21 [byte k.val] .badState
        else s.answers p tag 0x21 [byte k.val] .ok [] fun t =>
          (t.mapBuffers fun b r => if b ∈ (s.pool k).free then
              { r with state := .vacant, pool := none, handle := 0, layout := 0, stream := none, retiring := false }
            else r).modPool k
              fun q => { q with state := .unused, owner := none, free := [], registered := 0 })

/-- CLAIM_POOL and CLAIM_STREAM make the requesting port owner where the owner is absent (R15, R41). -/
def Obligations.ClaimsTakeAbsentOwnership : Prop :=
  ∀ (s : State) (p : Port) (tag : Byte),
    (∀ n : Byte, 3 < n.toNat → s.takes p tag 0x22 [n] = true →
      exec (.claimPool p tag [n]) s = .next (s.refuses p tag 0x22 [n] .range)) ∧
    (∀ k : PoolId, s.takes p tag 0x22 [byte k.val] = true →
      exec (.claimPool p tag [byte k.val]) s = .next (
        if (s.pool k).state = .unused then s.refuses p tag 0x22 [byte k.val] .noSuch
        else if (s.pool k).owner = none then
          s.answers p tag 0x22 [byte k.val] .ok [] fun t => t.modPool k fun q => { q with owner := some p }
        else if (s.pool k).owner = some p then s.answers p tag 0x22 [byte k.val] .ok [] id
        else s.refuses p tag 0x22 [byte k.val] .denied)) ∧
    (∀ n : Byte, 15 < n.toNat → s.takes p tag 0x33 [n] = true →
      exec (.claimStream p tag [n]) s = .next (s.refuses p tag 0x33 [n] .range)) ∧
    (∀ st : StreamId, s.takes p tag 0x33 [byte st.val] = true →
      exec (.claimStream p tag [byte st.val]) s = .next (
        if (s.stream st).state = .closed then s.refuses p tag 0x33 [byte st.val] .noSuch
        else if (s.stream st).owner = some p then s.answers p tag 0x33 [byte st.val] .ok [] id
        else if (s.stream st).producerMask.getLsbD p.val = false ∧ (s.stream st).consumerMask.getLsbD p.val = false ∧
            ((s.stream st).producer ≠ none ∨ ∃ c, ((s.stream st).slot c).occupied = true) then
          s.refuses p tag 0x33 [byte st.val] .denied
        else if (s.stream st).owner ≠ none then s.refuses p tag 0x33 [byte st.val] .denied
        else s.answers p tag 0x33 [byte st.val] .ok [] fun t =>
          t.modStream st fun x => { x with owner := some p }))

/-- REGISTER_BUFFER: the four checks, then the lowest-numbered VACANT record FREE at the tail of the free list, and the arbiter run. -/
def Obligations.RegisterBufferTakesLowestVacant : Prop :=
  ∀ (s : State) (p : Port) (tag h3 h2 h1 h0 l1 l0 : Byte),
    (∀ n : Byte, 3 < n.toNat → s.takes p tag 0x23 [n, h3, h2, h1, h0, l1, l0] = true →
      exec (.registerBuffer p tag [n, h3, h2, h1, h0, l1, l0]) s =
        .next (s.refuses p tag 0x23 [n, h3, h2, h1, h0, l1, l0] .range)) ∧
    ∀ k : PoolId, s.takes p tag 0x23 [byte k.val, h3, h2, h1, h0, l1, l0] = true →
      ((s.pool k).state = .unused → exec (.registerBuffer p tag [byte k.val, h3, h2, h1, h0, l1, l0]) s =
        .next (s.refuses p tag 0x23 [byte k.val, h3, h2, h1, h0, l1, l0] .noSuch)) ∧
      ((s.pool k).state ≠ .unused → (s.pool k).owner ≠ some p →
        exec (.registerBuffer p tag [byte k.val, h3, h2, h1, h0, l1, l0]) s =
          .next (s.refuses p tag 0x23 [byte k.val, h3, h2, h1, h0, l1, l0] .denied)) ∧
      ((s.pool k).state ≠ .unused → (s.pool k).owner = some p → (∀ b, (s.buffer b).state ≠ .vacant) →
        exec (.registerBuffer p tag [byte k.val, h3, h2, h1, h0, l1, l0]) s =
          .next (s.refuses p tag 0x23 [byte k.val, h3, h2, h1, h0, l1, l0] .noSlot)) ∧
      ∀ b, (s.pool k).state ≠ .unused → (s.pool k).owner = some p → (s.buffer b).state = .vacant →
        (∀ c, c < b → (s.buffer c).state ≠ .vacant) →
        exec (.registerBuffer p tag [byte k.val, h3, h2, h1, h0, l1, l0]) s =
          .next (s.answers p tag 0x23 [byte k.val, h3, h2, h1, h0, l1, l0] .ok [byte b.val, (s.buffer b).generation]
            fun t => runArbiter k ((t.modBuffer b fun r =>
              { state := .free, pool := some k, handle := h3 ++ h2 ++ h1 ++ h0, layout := l1 ++ l0,
                generation := r.generation, stream := none, holds := 0, retiring := false }).modPool k fun q =>
                  { q with free := q.free ++ [b], registered := q.registered + 1 }))

/-- RETIRE_BUFFER: the four checks, then a FREE record VACANT at once and a record in use marked retiring. -/
def Obligations.RetireBufferVacatesOrMarks : Prop :=
  ∀ (s : State) (p : Port) (tag g : Byte),
    (∀ n : Byte, 63 < n.toNat → s.takes p tag 0x24 [n, g] = true →
      exec (.retireBuffer p tag [n, g]) s = .next (s.refuses p tag 0x24 [n, g] .range)) ∧
    ∀ b : BufferId, s.takes p tag 0x24 [byte b.val, g] = true →
      ((s.buffer b).state = .vacant → exec (.retireBuffer p tag [byte b.val, g]) s =
        .next (s.refuses p tag 0x24 [byte b.val, g] .badState)) ∧
      ((s.buffer b).state ≠ .vacant → (∀ k, (s.buffer b).pool = some k → (s.pool k).owner ≠ some p) →
        exec (.retireBuffer p tag [byte b.val, g]) s = .next (s.refuses p tag 0x24 [byte b.val, g] .denied)) ∧
      ∀ k, (s.buffer b).state ≠ .vacant → (s.buffer b).pool = some k → (s.pool k).owner = some p →
        exec (.retireBuffer p tag [byte b.val, g]) s = .next (
          if (s.buffer b).generation ≠ g then s.refuses p tag 0x24 [byte b.val, g] .stale
          else if (s.buffer b).state = .free then
            s.answers p tag 0x24 [byte b.val, g] .ok [0] fun t =>
              (t.modBuffer b fun r => { r with state := .vacant, pool := none, handle := 0, layout := 0,
                                               stream := none, retiring := false }).modPool k
                fun q => { q with free := q.free.erase b, registered := q.registered - 1 }
          else s.answers p tag 0x24 [byte b.val, g] .ok [1] fun t =>
            t.modBuffer b fun r => { r with retiring := true })

/-! ### Streams (spec/02_streams.md) -/

/-- OPEN_STREAM: the three checks, then the lowest-numbered CLOSED record VACANT with the nine items and next sequence 1. -/
def Obligations.OpenStreamTakesLowestClosed : Prop :=
  ∀ (s : State) (p : Port) (tag pool policy depth quota reserve limit prod cons sig : Byte),
    let payload := [pool, policy, depth, quota, reserve, limit, prod, cons, sig]
    s.takes p tag 0x30 payload = true →
    ((3 < pool.toNat ∨ 1 < policy.toNat ∨ depth = 0 ∨ 8 < depth.toNat ∨ quota = 0 ∨ 16 < quota.toNat ∨
        quota.toNat < reserve.toNat ∨ 15 < prod.toNat ∨ 15 < cons.toNat ∨ (3 < sig.toNat ∧ sig ≠ 0xFF)) →
      exec (.openStream p tag payload) s = .next (s.refuses p tag 0x30 payload .range)) ∧
    ∀ (k : PoolId) (y : Policy) (a b : BitVec 4) (w : Option Port),
      pool = byte k.val → policy = y.code → 1 ≤ depth.toNat → depth.toNat ≤ 8 → 1 ≤ quota.toNat → quota.toNat ≤ 16 →
      reserve.toNat ≤ quota.toNat → prod = a.setWidth 8 → cons = b.setWidth 8 → sig = absentByte w →
      ((s.pool k).state = .unused →
        exec (.openStream p tag payload) s = .next (s.refuses p tag 0x30 payload .noSuch)) ∧
      ((s.pool k).state ≠ .unused → (∀ st, (s.stream st).state ≠ .closed) →
        exec (.openStream p tag payload) s = .next (s.refuses p tag 0x30 payload .noSlot)) ∧
      ∀ st, (s.pool k).state ≠ .unused → (s.stream st).state = .closed →
        (∀ u, u < st → (s.stream u).state ≠ .closed) →
        exec (.openStream p tag payload) s = .next (s.answers p tag 0x30 payload .ok [byte st.val] fun t =>
          t.modStream st fun _ =>
            { state := .vacant, owner := some p, producer := none, signaller := w, pool := k, policy := y,
              depth := depth.toNat, quota := quota.toNat, reserve := reserve.toNat, signalLimit := limit.toNat,
              producerMask := a, consumerMask := b, nextSequence := 1, list := [],
              slots := Vector.replicate 3 Slot.cleared, parked := none, published := 0, flips := 0, dropped := 0,
              expired := 0 })

/-- CONFIGURE_STREAM: the eight checks in their order, then every given item at its value in one event, a parked ACQUIRE cancelled by a
change of pool, and the arbiter run for a waiting stream whose quota or reserve changes. -/
def Obligations.ConfigureStreamChangesItems : Prop :=
  ∀ (s : State) (p : Port) (tag : Byte) (c : ConfigItems), c.producerMask.isSome = c.consumerMask.isSome →
    (∀ n : Byte, 15 < n.toNat → s.takes p tag 0x31 (n :: c.selector :: c.values) = true →
      exec (.configureStream p tag (n :: c.selector :: c.values)) s =
        .next (s.refuses p tag 0x31 (n :: c.selector :: c.values) .range)) ∧
    ∀ st : StreamId,
      let payload := byte st.val :: c.selector :: c.values
      let x := s.stream st
      let y := c.configured x
      s.takes p tag 0x31 payload = true →
      exec (.configureStream p tag payload) s = .next (
        if x.state = .closed then s.refuses p tag 0x31 payload .noSuch
        else if x.owner ≠ some p then s.refuses p tag 0x31 payload .denied
        else if x.state = .draining then s.refuses p tag 0x31 payload .closed
        else if ¬c.Fits x.quota x.reserve then s.refuses p tag 0x31 payload .range
        else if c.poolUnused s then s.refuses p tag 0x31 payload .noSuch
        else if (y.pool ≠ x.pool ∨ y.policy ≠ x.policy) ∧ 0 < s.outstanding st then
          s.refuses p tag 0x31 payload .badState
        else if c.depth ≠ none ∧ y.depth < x.list.length then s.refuses p tag 0x31 payload .badState
        else s.answers p tag 0x31 payload .ok [] fun t =>
          if y.pool ≠ x.pool then (cancelParked st t).modStream st c.configured
          else if x.parked.isSome ∧ (y.quota ≠ x.quota ∨ y.reserve ≠ x.reserve) then
            runArbiter x.pool (t.modStream st c.configured)
          else t.modStream st c.configured)

/-- CLOSE_STREAM: the three checks; OK and no change on a DRAINING stream; on a VACANT or LIVE one the steps of R37 in their order. A
notice to the members goes once to each distinct member port (R24, R120). -/
def Obligations.CloseStreamBeginsDrain : Prop :=
  ∀ (s : State) (p : Port) (tag : Byte),
    (∀ n : Byte, 15 < n.toNat → s.takes p tag 0x32 [n] = true →
      exec (.closeStream p tag [n]) s = .next (s.refuses p tag 0x32 [n] .range)) ∧
    ∀ st : StreamId, s.takes p tag 0x32 [byte st.val] = true →
      ((s.stream st).state = .closed →
        exec (.closeStream p tag [byte st.val]) s = .next (s.refuses p tag 0x32 [byte st.val] .noSuch)) ∧
      ((s.stream st).state ≠ .closed → (s.stream st).owner ≠ some p →
        exec (.closeStream p tag [byte st.val]) s = .next (s.refuses p tag 0x32 [byte st.val] .denied)) ∧
      ((s.stream st).state = .draining → (s.stream st).owner = some p →
        exec (.closeStream p tag [byte st.val]) s =
          .next (s.answers p tag 0x32 [byte st.val] .ok [byte (s.outstanding st)] id)) ∧
      ((s.stream st).state = .vacant ∨ (s.stream st).state = .live → (s.stream st).owner = some p →
        ∃ a b : State,
          a = cancelParked st ((s.taken p tag 0x32 [byte st.val]).modStream st fun x => { x with state := .draining }) ∧
          b = unlistAll ((s.stream st).list.map Entry.buffer) (a.modStream st fun x => { x with list := [] }) ∧
          exec (.closeStream p tag [byte st.val]) s =
            .next (s.responds p tag 0x32 [byte st.val] .ok [byte (b.outstanding st)]
              (drainTest st (queueNotices (b.stream st).members (.streamClosing st (b.outstanding st)) b)))) ∧
      ∀ (x : Stream) (n : Notice), ∃ t, queueNotices x.members n s = t ∧ t = { s with ports := t.ports } ∧
        ∀ q, t.port q =
          if x.producer = some q ∨ ∃ c, (x.slot c).occupied = true ∧ (x.slot c).port = some q then (queueNotice q n s).port q
          else s.port q

/-- JOIN_PRODUCER: the six checks in their order, then the port is the producer and the stream LIVE. -/
def Obligations.JoinProducerMakesStreamLive : Prop :=
  ∀ (s : State) (p : Port) (tag : Byte),
    (∀ n : Byte, 15 < n.toNat → s.takes p tag 0x34 [n] = true →
      exec (.joinProducer p tag [n]) s = .next (s.refuses p tag 0x34 [n] .range)) ∧
    ∀ st : StreamId, s.takes p tag 0x34 [byte st.val] = true →
      exec (.joinProducer p tag [byte st.val]) s = .next (
        if (s.stream st).state = .closed then s.refuses p tag 0x34 [byte st.val] .noSuch
        else if (s.stream st).state = .draining then s.refuses p tag 0x34 [byte st.val] .closed
        else if (s.stream st).producerMask.getLsbD p.val = false then s.refuses p tag 0x34 [byte st.val] .denied
        else if (s.stream st).producer ≠ none then s.refuses p tag 0x34 [byte st.val] .badState
        else if ∃ c, ((s.stream st).slot c).occupied = true ∧ ((s.stream st).slot c).port = some p then
          s.refuses p tag 0x34 [byte st.val] .badState
        else s.answers p tag 0x34 [byte st.val] .ok
          [(s.stream st).nextSequence.extractLsb' 8 8, (s.stream st).nextSequence.extractLsb' 0 8,
            byte (s.outstanding st)]
          fun t => t.modStream st fun x => { x with producer := some p, state := .live })

/-- LEAVE: judged by the role the port holds; a producer LEAVE makes the steps of R35 and a consumer LEAVE those of R101, in their order.
The releases of step 3 and the removals of step 4 take an order nothing constrains (log 11). -/
def Obligations.LeaveEndsRole : Prop :=
  ∀ (s : State) (p : Port) (tag : Byte),
    (∀ n : Byte, 15 < n.toNat → s.takes p tag 0x35 [n] = true →
      exec (.leave p tag [n]) s = .next (s.refuses p tag 0x35 [n] .range)) ∧
    ∀ st : StreamId, s.takes p tag 0x35 [byte st.val] = true →
      ((s.stream st).state = .closed →
        exec (.leave p tag [byte st.val]) s = .next (s.refuses p tag 0x35 [byte st.val] .noSuch)) ∧
      ((s.stream st).state ≠ .closed → (s.stream st).producer ≠ some p →
        (∀ c, ¬(((s.stream st).slot c).occupied = true ∧ ((s.stream st).slot c).port = some p)) →
        exec (.leave p tag [byte st.val]) s = .next (s.refuses p tag 0x35 [byte st.val] .denied)) ∧
      ((s.stream st).state ≠ .closed → (s.stream st).producer = some p →
        ∃ a b c : State,
          a = (cancelParked st (s.taken p tag 0x35 [byte st.val])).modStream st (fun x => { x with producer := none }) ∧
          b = releaseFillings st a ∧
          c = (if (s.stream st).signaller = none then removeUnsignalled st b else b) ∧
          exec (.leave p tag [byte st.val]) s = .next (s.responds p tag 0x35 [byte st.val] .ok []
            (drainTest st ((settle st c).modStream st fun x =>
              { x with state := if x.state = .live then .vacant else x.state })))) ∧
      ∀ c, (s.stream st).state ≠ .closed → (s.stream st).producer ≠ some p →
        ((s.stream st).slot c).occupied = true → ((s.stream st).slot c).port = some p →
        (∀ d, d < c → ¬(((s.stream st).slot d).occupied = true ∧ ((s.stream st).slot d).port = some p)) →
        exec (.leave p tag [byte st.val]) s = .next (s.answers p tag 0x35 [byte st.val] .ok [] fun t =>
          drainTest st (settle st (clearSlot st c t)))

/-! ### Acquisition (spec/03_acquisition_and_the_pool_arbiter.md) -/

/-- ACQUIRE: the seven checks in their order; a grant of the head of the free list at once; or the request parks. -/
def Obligations.AcquireGrantsOrParks : Prop :=
  ∀ (s : State) (p : Port) (tag wait : Byte),
    (∀ n : Byte, 15 < n.toNat → s.takes p tag 0x40 [n, wait] = true →
      exec (.acquire p tag [n, wait]) s = .next (s.refuses p tag 0x40 [n, wait] .range)) ∧
    ∀ st : StreamId,
      let payload := [byte st.val, wait]
      let x := s.stream st
      s.takes p tag 0x40 payload = true →
      (x.state = .closed → exec (.acquire p tag payload) s = .next (s.refuses p tag 0x40 payload .noSuch)) ∧
      (x.state = .draining → exec (.acquire p tag payload) s = .next (s.refuses p tag 0x40 payload .closed)) ∧
      (x.state = .vacant ∨ x.state = .live →
        (x.producer ≠ some p → exec (.acquire p tag payload) s = .next (s.refuses p tag 0x40 payload .denied)) ∧
        (x.producer = some p → x.quota ≤ s.outstanding st →
          exec (.acquire p tag payload) s = .next (s.refuses p tag 0x40 payload .quota)) ∧
        (∀ k, x.producer = some p → s.outstanding st < x.quota → x.parked = some k →
          exec (.acquire p tag payload) s = .next (s.answers p tag 0x40 payload .alreadyWaiting [k.tag] id)) ∧
        (x.producer = some p → s.outstanding st < x.quota → x.parked = none → (s.pool x.pool).free = [] → wait = 0 →
          exec (.acquire p tag payload) s = .next (s.refuses p tag 0x40 payload .exhausted)) ∧
        (∀ b rest, x.producer = some p → s.outstanding st < x.quota → x.parked = none →
          (s.pool x.pool).free = b :: rest →
          exec (.acquire p tag payload) s = .next (s.answers p tag 0x40 payload .ok
            ([byte b.val, (s.buffer b).generation + 1] ++ bytes32 (s.buffer b).handle ++ bytes16 (s.buffer b).layout)
            fun t => (t.modPool x.pool fun k => { k with free := rest }).modBuffer b fun r =>
              { r with state := .filling, generation := r.generation + 1, stream := some st })) ∧
        (x.producer = some p → s.outstanding st < x.quota → x.parked = none → (s.pool x.pool).free = [] → wait ≠ 0 →
          exec (.acquire p tag payload) s = .next (s.sends p payload
            ((((s.taken p tag 0x40 payload).modStream st fun x =>
              { x with parked := some { tag := tag, remaining := wait.toNat * 10 } }).modPool x.pool fun k =>
                { k with wait := k.wait ++ [st] }).modPort p fun r =>
                  { r with replay := if s.recorded p tag 0x40 then r.replay.map fun m => { m with parkedOn := some st }
                      else r.replay }))))

/-- The end of a parked ACQUIRE by its deadline (TIMEOUT) and by the operation that CLOSE_STREAM, a producer LEAVE and a change of pool
use (CANCELLED): the stream leaves the wait queue, the field becomes absent, the response joins the producer's queue and is copied into
a replay record that refers to the request (log 18). Where nothing is parked, or some of the wait is left, no wait expires (log 4,
log 6). -/
def Obligations.ParkedAcquireEnds : Prop :=
  ∀ (s : State) (st : StreamId),
    ((s.stream st).parked = none → exec (.acquireWaitExpiry st) s = .next s ∧ cancelParked st s = s) ∧
    ∀ k p, (s.stream st).parked = some k → (s.stream st).producer = some p →
      let ended := fun result : ResultCode =>
        ((s.modPool (s.stream st).pool fun q => { q with wait := q.wait.erase st }).modStream st fun x =>
          { x with parked := none }).modPort p fun r =>
            { r with responses := r.responses ++ [⟨k.tag, 0x40, result, []⟩],
                     replay := r.replay.map fun m => if m.parkedOn = some st then
                         { m with copy := some ⟨k.tag, 0x40, result, []⟩, parkedOn := none } else m }
      (k.remaining = 0 → exec (.acquireWaitExpiry st) s = .next (ended .timeout)) ∧
        (k.remaining ≠ 0 → exec (.acquireWaitExpiry st) s = .next s) ∧ cancelParked st s = ended .cancelled

/-- ABANDON: the four checks, then the release of the buffer and the drain completion test. -/
def Obligations.AbandonReleasesBuffer : Prop :=
  ∀ (s : State) (p : Port) (tag g : Byte),
    (∀ n : Byte, 63 < n.toNat → s.takes p tag 0x41 [n, g] = true →
      exec (.abandon p tag [n, g]) s = .next (s.refuses p tag 0x41 [n, g] .range)) ∧
    ∀ b : BufferId, s.takes p tag 0x41 [byte b.val, g] = true →
      ((s.buffer b).generation ≠ g →
        exec (.abandon p tag [byte b.val, g]) s = .next (s.refuses p tag 0x41 [byte b.val, g] .stale)) ∧
      ((s.buffer b).generation = g → (s.buffer b).state ≠ .filling →
        exec (.abandon p tag [byte b.val, g]) s = .next (s.refuses p tag 0x41 [byte b.val, g] .badState)) ∧
      ((s.buffer b).generation = g → (s.buffer b).state = .filling →
        (∀ st, (s.buffer b).stream = some st → (s.stream st).producer ≠ some p) →
        exec (.abandon p tag [byte b.val, g]) s = .next (s.refuses p tag 0x41 [byte b.val, g] .denied)) ∧
      ∀ st, (s.buffer b).generation = g → (s.buffer b).state = .filling → (s.buffer b).stream = some st →
        (s.stream st).producer = some p →
        exec (.abandon p tag [byte b.val, g]) s =
          .next (s.answers p tag 0x41 [byte b.val, g] .ok [] fun t => drainTest st (release b t))

/-! ### Publication (spec/04_publication_and_the_pending_list.md) -/

/-- PUBLISH: the checks of R65 in their order, the release of R66, the append of R67, the drop of R68 and the refusal of R69. -/
def Obligations.PublishAppendsDropsOrRefuses : Prop :=
  ∀ (s : State) (p : Port) (tag i g f : Byte), s.takes p tag 0x42 [i, g, f] = true →
    (63 < i.toNat ∨ 1 < f.toNat →
      exec (.publish p tag [i, g, f]) s = .next (s.refuses p tag 0x42 [i, g, f] .range)) ∧
    ∀ (b : BufferId) (sig : Bool), i = byte b.val → f = (if sig then 1 else 0) →
      let refusal := fun result => Host.Outcome.next (s.refuses p tag 0x42 [i, g, f] result)
      ((s.buffer b).generation ≠ g → exec (.publish p tag [i, g, f]) s = refusal .stale) ∧
      ((s.buffer b).generation = g → (s.buffer b).state ≠ .filling →
        exec (.publish p tag [i, g, f]) s = refusal .badState) ∧
      ((s.buffer b).generation = g → (s.buffer b).state = .filling →
        (∀ st, (s.buffer b).stream = some st → (s.stream st).producer ≠ some p) →
        exec (.publish p tag [i, g, f]) s = refusal .denied) ∧
      ∀ st, (s.buffer b).generation = g → (s.buffer b).state = .filling → (s.buffer b).stream = some st →
        (s.stream st).producer = some p →
        let x := s.stream st
        let appended := fun t : State => settle st ((t.modStream st fun y =>
          { y with list := y.list ++ [{ buffer := b, sequence := y.nextSequence, signalled := sig,
                                        deadline := if sig = false ∧ y.signalLimit ≠ 0 then some (y.signalLimit * 10)
                                          else none,
                                        passed := ⟨false, false, false⟩, shown := false }],
                   nextSequence := y.nextSequence + 1, published := y.published + 1 }).modBuffer b fun r =>
                     { r with state := .published })
        let answer := fun t : State => Host.Outcome.next (s.responds p tag 0x42 [i, g, f] .ok
          ([x.nextSequence.extractLsb' 8 8, x.nextSequence.extractLsb' 0 8] ++ [byte (t.stream st).list.length]) t)
        (x.state = .draining → exec (.publish p tag [i, g, f]) s =
          .next (s.answers p tag 0x42 [i, g, f] .closed [] fun t => drainTest st (release b t))) ∧
        (x.state ≠ .draining → x.list.length < x.depth →
          exec (.publish p tag [i, g, f]) s = answer (appended (s.taken p tag 0x42 [i, g, f]))) ∧
        (x.state ≠ .draining → x.depth ≤ x.list.length →
          (x.policy = .every ∨ ∀ e ∈ x.list, e.signalled = false) →
          exec (.publish p tag [i, g, f]) s = refusal .full) ∧
        ∀ l₁ e l₂, x.state ≠ .draining → x.depth ≤ x.list.length → x.policy = .latest → x.list = l₁ ++ e :: l₂ →
          e.signalled = true → (∀ d ∈ l₁, d.signalled = false) → (x.list.map Entry.buffer).Nodup →
          ∃ u v : State,
            u = ((s.taken p tag 0x42 [i, g, f]).modStream st fun y =>
              { y with list := l₁ ++ l₂, dropped := y.dropped + 1 }) ∧
            v = (if e.shown then u else queueNotice p
              (.dropped st e.buffer (s.buffer e.buffer).generation e.sequence) u) ∧
            exec (.publish p tag [i, g, f]) s = answer (appended (unlist e.buffer v))

/-- SIGNAL: the five checks in their order, then the entry signalled in its place, its deadline cancelled, and the stream settled. -/
def Obligations.SignalCompletesEntry : Prop :=
  ∀ (s : State) (p : Port) (tag g : Byte),
    (∀ n : Byte, 63 < n.toNat → s.takes p tag 0x43 [n, g] = true →
      exec (.signal p tag [n, g]) s = .next (s.refuses p tag 0x43 [n, g] .range)) ∧
    ∀ b : BufferId, s.takes p tag 0x43 [byte b.val, g] = true →
      ((s.buffer b).generation ≠ g →
        exec (.signal p tag [byte b.val, g]) s = .next (s.refuses p tag 0x43 [byte b.val, g] .stale)) ∧
      ((s.buffer b).generation = g → (s.buffer b).state ≠ .published →
        exec (.signal p tag [byte b.val, g]) s = .next (s.refuses p tag 0x43 [byte b.val, g] .badState)) ∧
      ∀ st, (s.buffer b).generation = g → (s.buffer b).state = .published → (s.buffer b).stream = some st →
        (((s.stream st).signaller.or (s.stream st).producer) ≠ some p →
          exec (.signal p tag [byte b.val, g]) s = .next (s.refuses p tag 0x43 [byte b.val, g] .denied)) ∧
        ∀ l₁ e l₂, ((s.stream st).signaller.or (s.stream st).producer) = some p →
          (s.stream st).list = l₁ ++ e :: l₂ → e.buffer = b → ((s.stream st).list.map Entry.buffer).Nodup →
          (e.signalled = true →
            exec (.signal p tag [byte b.val, g]) s = .next (s.refuses p tag 0x43 [byte b.val, g] .badState)) ∧
          (e.signalled = false →
            exec (.signal p tag [byte b.val, g]) s = .next (s.answers p tag 0x43 [byte b.val, g] .ok
              [e.sequence.extractLsb' 8 8, e.sequence.extractLsb' 0 8]
              fun t => settle st (t.modStream st fun x =>
                { x with list := l₁ ++ { e with signalled := true, deadline := none } :: l₂ })))

/-- The expiry of an unsignalled entry's deadline: removed and counted, SIGNAL_EXPIRED to the producer and to another configured
signaller, the buffer judged after the notices, the stream settled. Where no deadline has run out nothing expires (log 4, log 6). -/
def Obligations.SignalExpiryRemovesEntry : Prop :=
  ∀ (s : State) (st : StreamId) (b : BufferId),
    ((∀ e ∈ (s.stream st).list, e.buffer = b → e.signalled = true ∨ e.deadline ≠ some 0) →
      exec (.signalExpiry st b) s = .next s) ∧
    ∀ l₁ e l₂, (s.stream st).list = l₁ ++ e :: l₂ → e.buffer = b → ((s.stream st).list.map Entry.buffer).Nodup →
      e.signalled = false → e.deadline = some 0 →
      let n := Notice.signalExpired st b (s.buffer b).generation e.sequence
      let u := s.modStream st fun x => { x with list := l₁ ++ l₂, expired := x.expired + 1 }
      let v := match (s.stream st).producer with
        | some q => queueNotice q n u
        | none => u
      let w := match (s.stream st).signaller with
        | some q => if (s.stream st).producer = some q then v else queueNotice q n v
        | none => v
      exec (.signalExpiry st b) s = .next (settle st (unlist b w))

/-- Settling removes exactly the entries that R78 and R79 name, judged on the list as it stands, and each is then judged by its hold
count, oldest first. -/
def Obligations.SettlingRemovesUnneededEntries : Prop :=
  ∀ (s : State) (st : StreamId), ((s.stream st).list.map Entry.buffer).Nodup →
    ∃ gone : List BufferId,
      settle st s = unlistAll gone (s.modStream st fun x =>
        { x with list := x.list.filter fun e => decide (e.buffer ∉ gone) }) ∧
      gone.Sublist ((s.stream st).list.map Entry.buffer) ∧
      (∀ l₁ e l₂, (s.stream st).list = l₁ ++ e :: l₂ → (s.stream st).policy = .latest →
        (e.buffer ∈ gone ↔ e.signalled = true ∧
          (∀ c, ((s.stream st).slot c).occupied = true → e.passed.has c = true) ∧ ∃ d ∈ l₂, d.signalled = true)) ∧
      (∀ e ∈ (s.stream st).list, (s.stream st).policy = .every →
        (e.buffer ∈ gone ↔ e.signalled = true ∧ (∃ c, ((s.stream st).slot c).occupied = true) ∧
          ∀ c, ((s.stream st).slot c).occupied = true → e.passed.has c = true))

/-! ### Release, holds and the arbiter -/

/-- Release (R8, R9), a hold more and a hold less (R7), and the judgement of a buffer whose entry has left the list (R64). -/
def Obligations.ReleaseAndHoldsMoveBuffers : Prop :=
  ∀ (s : State) (b : BufferId),
    (∀ k st, (s.buffer b).state = .filling ∨ (s.buffer b).state = .published ∨ (s.buffer b).state = .held →
      (s.buffer b).pool = some k → (s.buffer b).stream = some st →
      let recycled := fun t : State => match (s.stream st).producer with
        | some q => queueNotice q (.recycled st b (s.buffer b).generation) t
        | none => t
      ((s.buffer b).retiring = false → release b s =
        runArbiter k (recycled ((s.modBuffer b fun r => { r with state := .free, stream := none }).modPool k fun q =>
          { q with free := q.free ++ [b] }))) ∧
      ((s.buffer b).retiring = true → release b s =
        recycled ((s.modBuffer b fun r => { r with state := .vacant, pool := none, handle := 0, layout := 0,
                                                   stream := none, retiring := false }).modPool k fun q =>
          { q with registered := q.registered - 1 }))) ∧
    (addHold b s = s.modBuffer b fun r => { r with holds := r.holds + 1 }) ∧
    ((s.buffer b).state = .held → (s.buffer b).holds ≤ 1 →
      dropHold b s = release b (s.modBuffer b fun r => { r with holds := 0 })) ∧
    ((s.buffer b).state ≠ .held ∨ 1 < (s.buffer b).holds →
      dropHold b s = s.modBuffer b fun r => { r with holds := r.holds - 1 }) ∧
    ((s.buffer b).state = .published → (s.buffer b).holds = 0 → unlist b s = release b s) ∧
    ((s.buffer b).state = .published → (s.buffer b).holds ≠ 0 →
      unlist b s = s.modBuffer b fun r => { r with state := .held }) ∧
    unlistAll [] s = s ∧ ∀ rest, unlistAll (b :: rest) s = unlistAll rest (unlist b s)

/-- What a LEAVE and a stream step make of a stream: every FILLING buffer of it is released and every unsignalled entry removed, each in
an order that nothing constrains (the model's choice, log 11); a slot that is cleared leaves every passed set, gives up its hold, takes
its cleared values and loses the boundaries addressed to it (R101, R86). -/
def Obligations.LeavingMovesBuffersAndClearsSlots : Prop :=
  ∀ (s : State) (st : StreamId),
    (∃ bs : List BufferId, bs.Nodup ∧
      (∀ b, b ∈ bs ↔ (s.buffer b).state = .filling ∧ (s.buffer b).stream = some st) ∧
      releaseFillings st s = bs.foldl (fun t b => release b t) { s with choices := s.choices + 1 }) ∧
    (((s.stream st).list.map Entry.buffer).Nodup → ∃ bs : List BufferId,
      bs.Perm (((s.stream st).list.filter fun e => !e.signalled).map Entry.buffer) ∧
      removeUnsignalled st s = unlistAll bs (({ s with choices := s.choices + 1 } : State).modStream st fun x =>
        { x with list := x.list.filter fun e => e.signalled })) ∧
    ∀ c : SlotId,
      let marked := s.modStream st fun x =>
        { x with list := x.list.map fun e => { e with passed := e.passed.put c false } }
      let dropped := match ((s.stream st).slot c).current with
        | some b => dropHold b marked
        | none => marked
      clearSlot st c s = { dropped.modStream st fun x => x.modSlot c fun _ =>
          { occupied := false, port := none, source := .line, current := none, currentSequence := none, repeats := 0,
            threshold := 0, stalled := false } with
        addressed := s.addressed.filter fun a => decide (a ≠ (st, c)) }

/-- The arbiter: the first stream in queue order below its reserve, failing that below its quota, is granted the head of the free list,
its parked ACQUIRE completes within the event, and the arbiter chooses again; it stops when nothing can be granted (R46, R52, R53). The
outstanding counts it compares are the numbers of records bound (R22). -/
def Obligations.ArbiterGrantsInOrder : Prop :=
  ∀ (s : State) (k : PoolId),
    (∀ st, s.outstanding st = (Finset.univ.filter fun b => (s.buffer b).stream = some st).card) ∧
    ((s.pool k).free = [] ∨ (∀ st ∈ (s.pool k).wait, (s.stream st).quota ≤ s.outstanding st) → runArbiter k s = s) ∧
    ∀ b rest l₁ st l₂ x p, (s.pool k).free = b :: rest → (s.pool k).wait = l₁ ++ st :: l₂ →
      s.outstanding st < (s.stream st).quota →
      (s.outstanding st < (s.stream st).reserve ∧
          (∀ u ∈ l₁, (s.stream u).quota ≤ s.outstanding u ∨ (s.stream u).reserve ≤ s.outstanding u) ∨
        (∀ u ∈ (s.pool k).wait, (s.stream u).quota ≤ s.outstanding u ∨ (s.stream u).reserve ≤ s.outstanding u) ∧
          ∀ u ∈ l₁, (s.stream u).quota ≤ s.outstanding u) →
      (s.stream st).pool = k → (s.stream st).parked = some x → (s.stream st).producer = some p →
      let response : Response := ⟨x.tag, 0x40, .ok, [byte b.val, (s.buffer b).generation + 1] ++
        bytes32 (s.buffer b).handle ++ bytes16 (s.buffer b).layout⟩
      runArbiter k s = runArbiter k ((((s.modPool k fun q => { q with free := rest, wait := l₁ ++ l₂ }).modBuffer b fun r =>
        { r with state := .filling, generation := r.generation + 1, stream := some st }).modStream st fun y =>
          { y with parked := none }).modPort p fun r =>
            { r with responses := r.responses ++ [response],
                     replay := r.replay.map fun m => if m.parkedOn = some st then
                         { m with copy := some response, parkedOn := none } else m })

/-- The drain completion test (R40): STREAM_CLOSED to the owner and the record at its cleared values, or nothing. -/
def Obligations.DrainCompletesWhenEmpty : Prop :=
  ∀ (s : State) (st : StreamId),
    ((s.stream st).state = .draining → (s.stream st).producer = none →
      (∀ c, ((s.stream st).slot c).occupied = false) → (∀ b, (s.buffer b).stream ≠ some st) →
      let x := s.stream st
      drainTest st s = (match x.owner with
        | some o => queueNotice o (.streamClosed st x.published x.flips x.dropped x.expired) s
        | none => s).modStream st fun _ => Stream.cleared) ∧
    ((s.stream st).state ≠ .draining ∨ (s.stream st).producer ≠ none ∨
        (∃ c, ((s.stream st).slot c).occupied = true) ∨ (∃ b, (s.buffer b).stream = some st) →
      drainTest st s = s)

/-! ### Presentation (spec/06_presentation.md) -/

/-- JOIN_CONSUMER: the seven checks in their order, then the lowest unoccupied slot is the port's. -/
def Obligations.JoinConsumerTakesLowestSlot : Prop :=
  ∀ (s : State) (p : Port) (tag n f threshold : Byte), s.takes p tag 0x50 [n, f, threshold] = true →
    let refusal := fun result => Host.Outcome.next (s.refuses p tag 0x50 [n, f, threshold] result)
    (15 < n.toNat → exec (.joinConsumer p tag [n, f, threshold]) s = refusal .range) ∧
    ∀ st : StreamId, n = byte st.val →
      ((s.stream st).state = .closed → exec (.joinConsumer p tag [n, f, threshold]) s = refusal .noSuch) ∧
      ((s.stream st).state ≠ .closed → 4 < f.toNat →
        exec (.joinConsumer p tag [n, f, threshold]) s = refusal .range) ∧
      ∀ source : Source, f = source.code →
        ((s.stream st).state = .draining → exec (.joinConsumer p tag [n, f, threshold]) s = refusal .badState) ∧
        ((s.stream st).state = .vacant ∨ (s.stream st).state = .live →
          ((s.stream st).consumerMask.getLsbD p.val = false →
            exec (.joinConsumer p tag [n, f, threshold]) s = refusal .denied) ∧
          ((s.stream st).consumerMask.getLsbD p.val = true →
            ((s.stream st).producer = some p ∨
              ∃ c, ((s.stream st).slot c).occupied = true ∧ ((s.stream st).slot c).port = some p) →
            exec (.joinConsumer p tag [n, f, threshold]) s = refusal .badState) ∧
          ((s.stream st).consumerMask.getLsbD p.val = true → (s.stream st).producer ≠ some p →
            (∀ c, ((s.stream st).slot c).occupied = true ∧ ((s.stream st).slot c).port ≠ some p) →
            exec (.joinConsumer p tag [n, f, threshold]) s = refusal .noSlot) ∧
          ∀ c, (s.stream st).consumerMask.getLsbD p.val = true → (s.stream st).producer ≠ some p →
            (∀ d, ((s.stream st).slot d).occupied = true → ((s.stream st).slot d).port ≠ some p) →
            ((s.stream st).slot c).occupied = false → (∀ d, d < c → ((s.stream st).slot d).occupied = true) →
            exec (.joinConsumer p tag [n, f, threshold]) s = .next (s.answers p tag 0x50 [n, f, threshold] .ok
              [byte c.val, (s.stream st).policy.code]
              fun t => t.modStream st fun x => x.modSlot c fun _ =>
                { occupied := true, port := some p, source := source, current := none, currentSequence := none,
                  repeats := 0, threshold := threshold.toNat, stalled := false }))

/-- RETUNE_CONSUMER: the four checks, then the slot's source and threshold; a change of source discards the boundaries addressed to the
slot and not yet taken (R86). -/
def Obligations.RetuneConsumerChangesSource : Prop :=
  ∀ (s : State) (p : Port) (tag n f threshold : Byte), s.takes p tag 0x51 [n, f, threshold] = true →
    let refusal := fun result => Host.Outcome.next (s.refuses p tag 0x51 [n, f, threshold] result)
    (15 < n.toNat → exec (.retuneConsumer p tag [n, f, threshold]) s = refusal .range) ∧
    ∀ st : StreamId, n = byte st.val →
      ((s.stream st).state = .closed → exec (.retuneConsumer p tag [n, f, threshold]) s = refusal .noSuch) ∧
      ((s.stream st).state ≠ .closed → 4 < f.toNat →
        exec (.retuneConsumer p tag [n, f, threshold]) s = refusal .range) ∧
      ∀ source : Source, f = source.code → (s.stream st).state ≠ .closed →
        ((∀ c, ¬(((s.stream st).slot c).occupied = true ∧ ((s.stream st).slot c).port = some p)) →
          exec (.retuneConsumer p tag [n, f, threshold]) s = refusal .denied) ∧
        ∀ c, ((s.stream st).slot c).occupied = true → ((s.stream st).slot c).port = some p →
          (∀ d, d < c → ¬(((s.stream st).slot d).occupied = true ∧ ((s.stream st).slot d).port = some p)) →
          exec (.retuneConsumer p tag [n, f, threshold]) s = .next (s.answers p tag 0x51 [n, f, threshold] .ok []
            fun t => { t.modStream st fun x => x.modSlot c fun k =>
                { k with source := source, threshold := threshold.toNat } with
              addressed := if ((s.stream st).slot c).source = source then t.addressed
                else t.addressed.filter fun a => decide (a ≠ (st, c)) })

/-- ACK_STALL: the three checks, then the slot's stall status clear, and the repeat count and the old status in the answer. -/
def Obligations.AckStallClearsStatus : Prop :=
  ∀ (s : State) (p : Port) (tag n : Byte), s.takes p tag 0x52 [n] = true →
    (15 < n.toNat → exec (.ackStall p tag [n]) s = .next (s.refuses p tag 0x52 [n] .range)) ∧
    ∀ st : StreamId, n = byte st.val →
      ((s.stream st).state = .closed → exec (.ackStall p tag [n]) s = .next (s.refuses p tag 0x52 [n] .noSuch)) ∧
      ((s.stream st).state ≠ .closed →
        (∀ c, ¬(((s.stream st).slot c).occupied = true ∧ ((s.stream st).slot c).port = some p)) →
        exec (.ackStall p tag [n]) s = .next (s.refuses p tag 0x52 [n] .denied)) ∧
      ∀ c, (s.stream st).state ≠ .closed → ((s.stream st).slot c).occupied = true →
        ((s.stream st).slot c).port = some p →
        (∀ d, d < c → ¬(((s.stream st).slot d).occupied = true ∧ ((s.stream st).slot d).port = some p)) →
        exec (.ackStall p tag [n]) s = .next (s.answers p tag 0x52 [n] .ok
          [byte ((s.stream st).slot c).repeats, if ((s.stream st).slot c).stalled then 1 else 0]
          fun t => t.modStream st fun x => x.modSlot c fun k => { k with stalled := false })

/-- A boundary taken at an occupied slot: ignored while DRAINING, a flip to the candidate of R104 or R105, or a repeat with the stall test
in LIVE alone. One that is not addressed any more is discarded (log 6); the list of those addressed is the model's choice (log 17). -/
def Obligations.BoundaryFlipsOrRepeats : Prop :=
  ∀ (s : State) (st : StreamId) (c : SlotId),
    ((st, c) ∉ s.addressed → exec (.boundary st c) s = .next s) ∧
    ((st, c) ∈ s.addressed →
      let taken : State := { s with addressed := s.addressed.erase (st, c) }
      let x := s.stream st
      let k := x.slot c
      (k.occupied = false ∨ x.state = .draining ∨ x.state = .closed → exec (.boundary st c) s = .next taken) ∧
      (k.occupied = true → x.state = .vacant ∨ x.state = .live →
        (∀ l₁ e l₂, x.list = l₁ ++ e :: l₂ → (x.list.map Entry.buffer).Nodup → e.signalled = true →
          e.passed.has c = false →
          (x.policy = .latest ∧ (∀ d ∈ l₂, d.signalled = true → d.passed.has c = true) ∨
            x.policy = .every ∧ ∀ d ∈ l₁, d.passed.has c = true) →
          let skips := l₁.countP fun d => !d.passed.has c
          let marked := taken.modStream st fun y =>
            { y with list := (l₁.map fun d => { d with passed := d.passed.put c true }) ++
                { e with passed := e.passed.put c true, shown := true } :: l₂ }
          let held := addHold e.buffer marked
          let dropped := match k.current with
            | some old => dropHold old held
            | none => held
          let moved := dropped.modStream st fun y =>
            { y.modSlot c (fun j => { j with current := some e.buffer, currentSequence := some e.sequence, repeats := 0 })
              with flips := y.flips + 1 }
          let r := moved.buffer e.buffer
          exec (.boundary st c) s = .next (settle st (match k.port with
            | some q => queueNotice q (.flip st c e.buffer r.generation r.handle r.layout e.sequence skips) moved
            | none => moved))) ∧
        (x.policy = .latest ∧ (∀ d ∈ x.list, d.signalled = true → d.passed.has c = true) ∨
            x.policy = .every ∧
              (∀ l₁ d l₂, x.list = l₁ ++ d :: l₂ → (∀ a ∈ l₁, a.passed.has c = true) → d.passed.has c = false →
                d.signalled = false) →
          (k.current = none → exec (.boundary st c) s = .next taken) ∧
          ∀ b, k.current = some b →
            let n := min 255 (k.repeats + 1)
            (¬(x.state = .live ∧ k.threshold ≠ 0 ∧ k.threshold ≤ n ∧ k.stalled = false) →
              exec (.boundary st c) s = .next (taken.modStream st fun y => y.modSlot c fun j => { j with repeats := n })) ∧
            (x.state = .live → k.threshold ≠ 0 → k.threshold ≤ n → k.stalled = false →
              let t := taken.modStream st fun y => y.modSlot c fun j => { j with repeats := n, stalled := true }
              exec (.boundary st c) s = .next (match k.port with
                | some q => queueNotice q
                    (.stall st c b (s.buffer b).generation (k.currentSequence.getD 0) n k.threshold) t
                | none => t)))))

/-! ### Boundary sources (spec/05_boundary_sources.md) -/

/-- START_TIMER, STOP_TIMER and CLAIM_TIMER (R88, R90, R91). -/
def Obligations.TimerStartsAndStops : Prop :=
  ∀ (s : State) (p : Port) (tag : Byte),
    (∀ n hi lo : Byte, s.takes p tag 0x60 [n, hi, lo] = true → 3 < n.toNat ∨ (hi ++ lo : Half) = 0 →
      exec (.startTimer p tag [n, hi, lo]) s = .next (s.refuses p tag 0x60 [n, hi, lo] .range)) ∧
    (∀ (i : TimerId) (hi lo : Byte), s.takes p tag 0x60 [byte i.val, hi, lo] = true → (hi ++ lo : Half) ≠ 0 →
      exec (.startTimer p tag [byte i.val, hi, lo]) s = .next (
        if (s.timer i).owner ≠ none ∧ (s.timer i).owner ≠ some p then
          s.refuses p tag 0x60 [byte i.val, hi, lo] .denied
        else s.answers p tag 0x60 [byte i.val, hi, lo] .ok [] fun t => t.modTimer i fun _ =>
          { state := .running, owner := some p, period := hi ++ lo, remaining := some (hi ++ lo : Half).toNat })) ∧
    (∀ n : Byte, s.takes p tag 0x61 [n] = true → 3 < n.toNat →
      exec (.stopTimer p tag [n]) s = .next (s.refuses p tag 0x61 [n] .range)) ∧
    (∀ i : TimerId, s.takes p tag 0x61 [byte i.val] = true →
      exec (.stopTimer p tag [byte i.val]) s = .next (
        if (s.timer i).owner ≠ some p then s.refuses p tag 0x61 [byte i.val] .denied
        else s.answers p tag 0x61 [byte i.val] .ok [] fun t => t.modTimer i fun r =>
          { r with state := .stopped, remaining := none })) ∧
    (∀ n : Byte, 3 < n.toNat → s.takes p tag 0x62 [n] = true →
      exec (.claimTimer p tag [n]) s = .next (s.refuses p tag 0x62 [n] .range)) ∧
    (∀ i : TimerId, s.takes p tag 0x62 [byte i.val] = true →
      exec (.claimTimer p tag [byte i.val]) s = .next (
        if (s.timer i).owner = some p then s.answers p tag 0x62 [byte i.val] .ok [] id
        else if (s.timer i).owner ≠ none then s.refuses p tag 0x62 [byte i.val] .denied
        else s.answers p tag 0x62 [byte i.val] .ok [] fun t => t.modTimer i fun r => { r with owner := some p }))

/-- A qualified rising edge addresses one boundary to each slot that port p occupies with the line source, and a timer's expiry one to
each occupied slot that selects the timer; in what order they are taken is the model's choice (log 17). A fall addresses none. A rise of
a HIGH level, an edge in reset and an expiry before the time has run out cannot occur and change nothing (log 4, log 6). -/
def Obligations.EdgesAndExpiriesAddressSlots : Prop :=
  ∀ (s : State) (p : Port) (i : TimerId),
    (s.phase ≠ .resetting → (s.port p).bnd = .low → ∃ slots : List (StreamId × SlotId), slots.Nodup ∧
      (∀ st c, (st, c) ∈ slots ↔ ((s.stream st).slot c).occupied = true ∧ ((s.stream st).slot c).source = .line ∧
        ((s.stream st).slot c).port = some p) ∧
      exec (.qualifiedRisingEdge p) s =
        .next { s.modPort p fun r => { r with bnd := .high } with addressed := s.addressed ++ slots }) ∧
    (s.phase = .resetting ∨ (s.port p).bnd = .high → exec (.qualifiedRisingEdge p) s = .next s) ∧
    (s.phase ≠ .resetting → exec (.qualifiedFall p) s = .next (s.modPort p fun r => { r with bnd := .low })) ∧
    (s.phase = .resetting → exec (.qualifiedFall p) s = .next s) ∧
    ((s.timer i).state = .running → (s.timer i).remaining = some 0 → ∃ slots : List (StreamId × SlotId), slots.Nodup ∧
      (∀ st c, (st, c) ∈ slots ↔ ((s.stream st).slot c).occupied = true ∧ ((s.stream st).slot c).source = .timer i) ∧
      exec (.timerExpiry i) s = .next { s.modTimer i fun r => { r with remaining := some r.period.toNat } with
        addressed := s.addressed ++ slots }) ∧
    ((s.timer i).state = .stopped ∨ (s.timer i).remaining ≠ some 0 → exec (.timerExpiry i) s = .next s)

/-! ### Queries (spec/09_requests_and_responses.md 9.10) -/

/-- The five queries change no record of a pool, stream, buffer, timer or other port, and answer with the fields of the record as they
stand in the event (R169 to R174). Bits of a flags byte without a meaning read a free value, which the model's own counter draws
(log 15). -/
def Obligations.QueriesReportAndChangeNothing : Prop :=
  let drawn := fun t : State => { t with choices := t.choices + 1 }
  ∀ (s : State) (p : Port) (tag : Byte),
    (s.takes p tag 0x70 [] = true ∨ s.takesDetached p 0x70 [] = true →
      exec (.queryDevice p tag []) s = .next (s.answers p tag 0x70 [] .ok
        ([byte p.val] ++ (allPorts.flatMap fun q => [(s.port q).state.code, (s.port q).session]) ++
          allTimers.flatMap fun i =>
            [(if (s.timer i).state = .running then 0x80 else 0) ||| ((s.timer i).owner.map fun q => byte q.val).getD 0x0F |||
                (Config.unnamedBits s.choices i.val &&& 0x70),
              (s.timer i).period.extractLsb' 8 8, (s.timer i).period.extractLsb' 0 8]) drawn)) ∧
    (∀ n : Byte, s.takes p tag 0x71 [n] = true →
      (3 < n.toNat → exec (.queryPort p tag [n]) s = .next (s.refuses p tag 0x71 [n] .range)) ∧
      ∀ q : Port, n = byte q.val →
        let r := (s.taken p tag 0x71 [n]).port q
        exec (.queryPort p tag [n]) s = .next (s.answers p tag 0x71 [n] .ok
          ([r.state.code, r.session, r.leaseInterval] ++
            (match r.leaseRemaining with
              | some u => bytes16 (BitVec.ofNat 16 (u / 10))
              | none => [0xFF, 0xFF]) ++
            [byte r.window, byte r.responses.length] ++
            (match r.replay with
              | some m => [m.tag, m.code]
              | none => [0, 0]) ++
            [byte r.notices.length, byte r.lost] ++ bytes16 r.mask ++ [r.lastFrame.code] ++ bytes16 r.framesTaken ++
            bytes16 r.frameErrors ++ bytes16 r.noticesLost ++ [if r.bnd = .high then 1 else 0]) id)) ∧
    (∀ n part : Byte, s.takes p tag 0x72 [n, part] = true →
      (3 < n.toNat ∨ 4 < part.toNat →
        exec (.queryPool p tag [n, part]) s = .next (s.refuses p tag 0x72 [n, part] .range)) ∧
      ∀ k : PoolId, n = byte k.val → part.toNat ≤ 4 → exec (.queryPool p tag [n, part]) s = .next (
        if (s.pool k).state = .unused then s.refuses p tag 0x72 [n, part] .noSuch
        else s.answers p tag 0x72 [n, part] .ok (poolData (s.pool k) part.toNat) id)) ∧
    (∀ n : Byte, 3 < n.toNat → s.takes p tag 0x72 [n] = true →
      exec (.queryPool p tag [n]) s = .next (s.refuses p tag 0x72 [n] .range)) ∧
    (∀ k : PoolId, s.takes p tag 0x72 [byte k.val] = true → exec (.queryPool p tag [byte k.val]) s = .next (
      if (s.pool k).state = .unused then s.refuses p tag 0x72 [byte k.val] .noSuch
      else s.answers p tag 0x72 [byte k.val] .ok (poolData (s.pool k) 0) id)) ∧
    (∀ n page part : Byte, s.takes p tag 0x73 [n, page, part] = true →
      (15 < n.toNat → exec (.queryStream p tag [n, page, part]) s = .next (s.refuses p tag 0x73 [n, page, part] .range)) ∧
      ∀ st : StreamId, n = byte st.val → exec (.queryStream p tag [n, page, part]) s = .next (
        if (s.stream st).state = .closed then s.refuses p tag 0x73 [n, page, part] .noSuch
        else if 4 < page.toNat ∨ 1 < part.toNat ∨ (part = 1 ∧ page ≠ 1) then
          s.refuses p tag 0x73 [n, page, part] .range
        else s.answers p tag 0x73 [n, page, part] .ok (streamData st page.toNat part.toNat s) drawn)) ∧
    (∀ n page : Byte, s.takes p tag 0x73 [n, page] = true →
      (15 < n.toNat → exec (.queryStream p tag [n, page]) s = .next (s.refuses p tag 0x73 [n, page] .range)) ∧
      ∀ st : StreamId, n = byte st.val → exec (.queryStream p tag [n, page]) s = .next (
        if (s.stream st).state = .closed then s.refuses p tag 0x73 [n, page] .noSuch
        else if 4 < page.toNat then s.refuses p tag 0x73 [n, page] .range
        else s.answers p tag 0x73 [n, page] .ok (streamData st page.toNat 0 s) drawn)) ∧
    (∀ n : Byte, s.takes p tag 0x74 [n] = true →
      (63 < n.toNat → exec (.queryBuffer p tag [n]) s = .next (s.refuses p tag 0x74 [n] .range)) ∧
      ∀ b : BufferId, n = byte b.val →
        let fields := [(s.buffer b).state.code, absentByte (s.buffer b).pool] ++ bytes32 (s.buffer b).handle ++
          bytes16 (s.buffer b).layout ++ [(s.buffer b).generation, absentByte (s.buffer b).stream, byte (s.buffer b).holds,
            if (s.buffer b).retiring then 1 else 0]
        ((s.buffer b).state ≠ .published → exec (.queryBuffer p tag [n]) s =
          .next (s.answers p tag 0x74 [n] .ok (fields ++ [0, 0, 0xFF]) id)) ∧
        ∀ st l₁ e l₂, (s.buffer b).state = .published → (s.buffer b).stream = some st → (s.stream st).list = l₁ ++ e :: l₂ →
          e.buffer = b → ((s.stream st).list.map Entry.buffer).Nodup → exec (.queryBuffer p tag [n]) s =
            .next (s.answers p tag 0x74 [n] .ok (fields ++ bytes16 e.sequence ++ [if e.signalled then 1 else 0]) id))

/-- The layout of the answers of QUERY_POOL and QUERY_STREAM (R172, R173, Table 10-7b), and the values of the state fields and parameters in
all answers (Table 10-6, below Table 10-7a). Bits without a meaning read a free value, which nothing constrains (log 15); that the page of
an unoccupied slot counts 0 unpassed entries is the model's choice (log 29). -/
def Obligations.PoolAndStreamAnswersLayOut : Prop :=
  let nibble := fun o : Option Port => (o.map Fin.val).getD 15
  ([PortState.detached, .attached, .lapsing].map PortState.code = [0, 1, 2] ∧
    [BufferState.vacant, .free, .filling, .published, .held].map BufferState.code = [0, 1, 2, 3, 4] ∧
    [StreamState.closed, .vacant, .live, .draining].map StreamState.code = [0, 1, 2, 3] ∧
    [PoolState.unused, .active].map PoolState.code = [0, 1] ∧ [Policy.latest, .every].map Policy.code = [0, 1] ∧
    [Source.line, .timer 0, .timer 1, .timer 2, .timer 3].map Source.code = [0, 1, 2, 3, 4] ∧
    (∀ n, ∀ i : Fin n, absentByte (some i) = BitVec.ofNat 8 i.val ∧ absentByte (none : Option (Fin n)) = 0xFF) ∧
    (∀ v : Half, bytes16 v = [v.extractLsb' 8 8, v.extractLsb' 0 8]) ∧
    ∀ v : Handle, bytes32 v = [v.extractLsb' 24 8, v.extractLsb' 16 8, v.extractLsb' 8 8, v.extractLsb' 0 8]) ∧
  (∀ q : Pool, q.wait.length ≤ 16 → poolData q 0 =
    [q.state.code, absentByte q.owner, byte q.registered, byte q.free.length, byte q.wait.length] ++
      (q.wait.map fun st => byte st.val) ++ List.replicate (16 - q.wait.length) 0xFF) ∧
  (∀ (q : Pool) (part : Nat), 1 ≤ part → part ≤ 4 →
    (poolData q part).length = 17 ∧ (poolData q part)[0]? = some (byte q.free.length) ∧
    ∀ i, i < 16 → (poolData q part)[i + 1]? = some (match q.free[16 * (part - 1) + i]? with
      | some b => byte b.val
      | none => 0xFF)) ∧
  ∀ (s : State) (st : StreamId), (s.stream st).Sound →
    let x := s.stream st
    streamData st 0 0 s =
      [byte (x.state.code.toNat + (if x.policy = .every then 4 else 0) + if x.parked.isSome then 128 else 0) |||
          (Config.unnamedBits s.choices 0 &&& 0x78),
        byte (nibble x.owner * 16 + nibble x.producer), byte (nibble x.signaller * 16 + x.pool.val),
        byte (x.depth * 16 + x.list.length), byte x.quota, byte x.reserve, byte x.signalLimit,
        byte (x.consumerMask.toNat * 16 + x.producerMask.toNat)] ++ bytes16 x.nextSequence ++ [byte (s.outstanding st)] ++
        (match x.parked with
          | some k => [k.tag, byte (k.remaining / 10)]
          | none => [0, 0]) ++
        bytes16 x.published ++ bytes16 x.flips ++ bytes16 x.dropped ++ bytes16 x.expired ∧
    (∀ part, part ≤ 1 → streamData st 1 part s = byte x.list.length :: ([0, 1, 2, 3].flatMap fun i =>
      match x.list[4 * part + i]? with
        | some e => byte e.buffer.val :: (bytes16 e.sequence ++
            [byte ((if e.signalled then 1 else 0) + (if e.shown then 2 else 0) + (if e.passed.c0 then 16 else 0) +
              (if e.passed.c1 then 32 else 0) + if e.passed.c2 then 64 else 0) |||
              (Config.unnamedBits s.choices i &&& 0x8C)])
        | none => [0xFF, 0, 0, 0])) ∧
    ∀ c : SlotId, streamData st (c.val + 2) 0 s =
      [byte ((if (x.slot c).occupied then 128 else 0) + if (x.slot c).stalled then 1 else 0) |||
          (Config.unnamedBits s.choices 0 &&& 0x7E), absentByte (x.slot c).port,
        (x.slot c).source.code, absentByte (x.slot c).current,
        ((x.slot c).current.map fun b => (s.buffer b).generation).getD 0] ++ bytes16 ((x.slot c).currentSequence.getD 0) ++
        [byte (x.slot c).repeats, byte (x.slot c).threshold,
          byte (if (x.slot c).occupied then x.list.countP fun e => !e.passed.has c else 0)]

/-! ### The sweep (R146 to R151) -/

/-- A stream step makes the parts that apply, in their order (R146 to R150), and the sweep goes on to the next step; a step that is not
the sweep's next one cannot occur and changes nothing (log 6, log 16). -/
def Obligations.StreamStepMakesItsParts : Prop :=
  ∀ (s : State) (p : Port) (st : StreamId),
    let x := s.stream st
    let onward := fun t : State => Host.Outcome.next (t.modPort p fun r => { r with sweep := r.sweep.map fun w =>
      { w with next := if h : st.val + 1 < 16 then .stream ⟨st.val + 1, h⟩ else .thirdStage } })
    let owned := fun t : State => drainTest st (if x.owner = some p then
      queueNotices ((t.modStream st fun y => { y with owner := none }).stream st).members
        (.ownerLost st p (s.port p).session) (t.modStream st fun y => { y with owner := none }) else t)
    let lost := fun (role : LostRole) (t : State) =>
      let n := Notice.memberLost st p role (s.port p).session
      let u := queueNotices (t.stream st).members n t
      match x.owner with
      | some o =>
        if (t.stream st).producer = some o ∨ ∃ c, ((t.stream st).slot c).occupied = true ∧ ((t.stream st).slot c).port = some o then u
        else queueNotice o n u
      | none => u
    (¬((s.port p).state = .lapsing ∧ (s.port p).sweep.map Sweep.next = some (.stream st)) →
      exec (.streamStep p st) s = .next s) ∧
    ((s.port p).state = .lapsing → (s.port p).sweep.map Sweep.next = some (.stream st) →
      (x.state = .closed ∨ (x.producer ≠ some p ∧ x.signaller ≠ some p ∧ x.owner ≠ some p ∧
          ∀ c, ¬((x.slot c).occupied = true ∧ (x.slot c).port = some p)) →
        exec (.streamStep p st) s = onward s) ∧
      (x.state ≠ .closed → x.producer = some p → ∃ a b : State,
        a = releaseFillings st (s.modStream st fun y => { y with producer := none }) ∧
        b = (if x.signaller = none ∨ x.signaller = some p then removeUnsignalled st a else a) ∧
        exec (.streamStep p st) s = onward (owned (lost .producer (settle st
          (b.modStream st fun y => { y with state := if y.state = .live then .vacant else y.state }))))) ∧
      (∀ c, x.state ≠ .closed → x.producer ≠ some p → (x.slot c).occupied = true → (x.slot c).port = some p →
        (∀ d, d < c → ¬((x.slot d).occupied = true ∧ (x.slot d).port = some p)) →
        exec (.streamStep p st) s = onward (owned (lost (.consumer c) (settle st
          (if x.signaller = some p then removeUnsignalled st (clearSlot st c s) else clearSlot st c s))))) ∧
      (x.state ≠ .closed → x.producer ≠ some p →
        (∀ c, ¬((x.slot c).occupied = true ∧ (x.slot c).port = some p)) →
        (x.signaller = some p → exec (.streamStep p st) s = onward (owned (settle st (removeUnsignalled st s)))) ∧
        (x.signaller ≠ some p → x.owner = some p → exec (.streamStep p st) s = onward (owned s))))

/-- After its stream step the stream names the lapsing port neither as producer nor as owner nor in an occupied slot, and no record of
another stream has lost anything but a parked ACQUIRE that was granted. -/
def Obligations.StreamStepRemovesPort : Prop :=
  ∀ (s : State) (p : Port) (st : StreamId), (s.port p).state = .lapsing →
    (s.port p).sweep.map Sweep.next = some (.stream st) → StreamsSound s → TablesSound s →
    ∃ t, exec (.streamStep p st) s = .next t ∧
      (t.stream st).producer ≠ some p ∧ (t.stream st).owner ≠ some p ∧
      (∀ c, ((t.stream st).slot c).occupied = true → ((t.stream st).slot c).port ≠ some p) ∧
      (∀ u, u ≠ st → ∃ k, t.stream u = { s.stream u with parked := k } ∧ (k = none ∨ k = (s.stream u).parked)) ∧
      (∀ q, (t.port q).state = (s.port q).state ∧ (t.port q).session = (s.port q).session)

/-- The third stage makes the owners of the port's pools and timers absent and nothing else; the fourth makes the port DETACHED, and
queues the DETACH's OK response where a DETACH began the sweep (R151). A stage that is not the sweep's next one, or of a port that is not
LAPSING, cannot occur and changes nothing (log 6, log 16). -/
def Obligations.SweepEndsAfterFourthStage : Prop :=
  ∀ (s : State) (p : Port) (tag : Option Byte),
    ((s.port p).state = .lapsing → (s.port p).sweep = some ⟨.thirdStage, tag⟩ → exec (.sweepThirdStage p) s =
      .next (((s.mapPools fun _ k => { k with owner := if k.owner = some p then none else k.owner }).mapTimers fun _ r =>
        { r with owner := if r.owner = some p then none else r.owner }).modPort p fun r =>
          { r with sweep := some ⟨.fourthStage, tag⟩ })) ∧
    ((s.port p).state = .lapsing → (s.port p).sweep = some ⟨.fourthStage, tag⟩ →
      (tag = none → exec (.sweepFourthStage p) s =
        .next (s.modPort p fun r => { r with state := .detached, sweep := none })) ∧
      ∀ v, tag = some v → exec (.sweepFourthStage p) s = .next (s.modPort p fun r =>
        { r with state := .detached, sweep := none, window := 1,
                 responses := r.responses ++ [⟨v, 0x11, .ok, [r.session]⟩] })) ∧
    ((s.port p).state ≠ .lapsing ∨ (s.port p).sweep.map Sweep.next ≠ some .thirdStage → exec (.sweepThirdStage p) s = .next s) ∧
    ((s.port p).state ≠ .lapsing ∨ (s.port p).sweep.map Sweep.next ≠ some .fourthStage → exec (.sweepFourthStage p) s = .next s)

/-! ### Invariants -/

/-- The state after a device reset and its recovery interval has every invariant below. -/
def Obligations.ResetStateIsSound : Prop :=
  PortsSound State.reset ∧ StreamsSound State.reset ∧ WindowsSound State.reset ∧ TablesSound State.reset

/-- The port records stay sound: queue lengths, lost counts, masks, leases and the fields of each port state. -/
def Obligations.StepKeepsPortsSound : Prop :=
  ∀ s t : State, PortsSound s → step s = .next t → PortsSound t

/-- The stream records stay sound (given that the tables are): ranges of the items, the pending list within its depth and empty while
DRAINING, CLOSED records at their cleared values, a producer exactly where the state says, and the entries a slot has passed an unbroken
run at the head of the list (R96). -/
def Obligations.StepKeepsStreamsSound : Prop :=
  ∀ s t : State, StreamsSound s → TablesSound s → step s = .next t → StreamsSound t

/-- The request window stays the number of responses queued and requests parked, never above 4. -/
def Obligations.StepKeepsWindowsSound : Prop :=
  ∀ s t : State, StreamsSound s → WindowsSound s → TablesSound s → step s = .next t → WindowsSound t

/-- The buffer table, the pools, the wait queues and the streams stay consistent with each other, and the timers sound (R87). -/
def Obligations.StepKeepsTablesSound : Prop :=
  ∀ s t : State, StreamsSound s → WindowsSound s → TablesSound s → step s = .next t → TablesSound t
end

