-- ==== Sys2Proof/Laws/State.lean ====
section
/-!
SUPPORT. The records of State through every update: one lemma per field per update, and reading after writing.
-/

namespace Sys2Proof.Machine

/-! ### Banks -/

theorem get_set_same {α : Type} {n : Nat} (v : Vector α n) (i : Fin n) (x : α) : (v.set i x).get i = x := by
  simp [Vector.get_eq_getElem]

theorem get_set {α : Type} {n : Nat} (v : Vector α n) (i j : Fin n) (x : α) :
    (v.set i x).get j = if j = i then x else v.get j := by
  simp [Vector.get_eq_getElem, Vector.getElem_set, Fin.ext_iff, eq_comm]

theorem set_set_same {α : Type} {n : Nat} (v : Vector α n) (i : Fin n) (x y : α) : (v.set i x).set i y = v.set i y := by
  simp

theorem set_get_same {α : Type} {n : Nat} (v : Vector α n) (i : Fin n) : v.set i (v.get i) = v := by
  ext j hj
  by_cases h : i.val = j <;> simp [Vector.get_eq_getElem, h]

theorem get_mapBank {α : Type} {n : Nat} (f : α → α) (v : Vector α n) (i : Fin n) :
    (mapBank f v).get i = f (v.get i) := by
  simp [mapBank, Vector.get_eq_getElem]

theorem get_ext {α : Type} {n : Nat} {v w : Vector α n} (h : ∀ i : Fin n, v.get i = w.get i) : v = w := by
  ext j hj
  simpa [Vector.get_eq_getElem] using h ⟨j, hj⟩

theorem get_ofFn {α : Type} {n : Nat} (f : Fin n → α) (i : Fin n) : (Vector.ofFn f).get i = f i := by
  simp [Vector.get_eq_getElem]

/-- Two states are equal when their records are, one by one, and the rest is. -/
theorem state_ext {s t : State} (hb : ∀ b, s.buffer b = t.buffer b) (hk : ∀ k, s.pool k = t.pool k)
    (hs : ∀ st, s.stream st = t.stream st) (ht : ∀ i, s.timer i = t.timer i) (hp : ∀ p, s.port p = t.port p)
    (ha : s.addressed = t.addressed) (h1 : s.phase = t.phase) (h2 : s.resetN = t.resetN)
    (h3 : s.supplies = t.supplies) (h4 : s.choices = t.choices) (h5 : s.pending = t.pending) : s = t := by
  obtain ⟨b, k, st, i, p, a, ph, rn, su, ch, pe⟩ := s
  obtain ⟨b', k', st', i', p', a', ph', rn', su', ch', pe'⟩ := t
  obtain rfl : b = b' := get_ext hb
  obtain rfl : k = k' := get_ext hk
  obtain rfl : st = st' := get_ext hs
  obtain rfl : i = i' := get_ext ht
  obtain rfl : p = p' := get_ext hp
  simp_all

/-! ### Whole banks -/

@[simp] theorem mapBuffers_buffer (s : State) (f : BufferId → Buffer → Buffer) (b : BufferId) :
    (s.mapBuffers f).buffer b = f b (s.buffer b) := by
  simp only [State.mapBuffers, State.buffer, get_ofFn]
@[simp] theorem mapPools_pool (s : State) (f : PoolId → Pool → Pool) (k : PoolId) :
    (s.mapPools f).pool k = f k (s.pool k) := by
  simp only [State.mapPools, State.pool, get_ofFn]
@[simp] theorem mapStreams_stream (s : State) (f : StreamId → Stream → Stream) (st : StreamId) :
    (s.mapStreams f).stream st = f st (s.stream st) := by
  simp only [State.mapStreams, State.stream, get_ofFn]
@[simp] theorem mapTimers_timer (s : State) (f : TimerId → Timer → Timer) (i : TimerId) :
    (s.mapTimers f).timer i = f i (s.timer i) := by
  simp only [State.mapTimers, State.timer, get_ofFn]
@[simp] theorem mapBuffers_pool (s : State) (f : BufferId → Buffer → Buffer) (k : PoolId) :
    (s.mapBuffers f).pool k = s.pool k := by
  simp only [State.mapBuffers, State.pool]
@[simp] theorem mapBuffers_stream (s : State) (f : BufferId → Buffer → Buffer) (st : StreamId) :
    (s.mapBuffers f).stream st = s.stream st := by
  simp only [State.mapBuffers, State.stream]
@[simp] theorem mapBuffers_timer (s : State) (f : BufferId → Buffer → Buffer) (i : TimerId) :
    (s.mapBuffers f).timer i = s.timer i := by
  simp only [State.mapBuffers, State.timer]
@[simp] theorem mapBuffers_port (s : State) (f : BufferId → Buffer → Buffer) (p : Port) :
    (s.mapBuffers f).port p = s.port p := by
  simp only [State.mapBuffers, State.port]
@[simp] theorem mapPools_buffer (s : State) (f : PoolId → Pool → Pool) (b : BufferId) :
    (s.mapPools f).buffer b = s.buffer b := by
  simp only [State.mapPools, State.buffer]
@[simp] theorem mapPools_stream (s : State) (f : PoolId → Pool → Pool) (st : StreamId) :
    (s.mapPools f).stream st = s.stream st := by
  simp only [State.mapPools, State.stream]
@[simp] theorem mapPools_timer (s : State) (f : PoolId → Pool → Pool) (i : TimerId) :
    (s.mapPools f).timer i = s.timer i := by
  simp only [State.mapPools, State.timer]
@[simp] theorem mapPools_port (s : State) (f : PoolId → Pool → Pool) (p : Port) :
    (s.mapPools f).port p = s.port p := by
  simp only [State.mapPools, State.port]
@[simp] theorem mapStreams_buffer (s : State) (f : StreamId → Stream → Stream) (b : BufferId) :
    (s.mapStreams f).buffer b = s.buffer b := by
  simp only [State.mapStreams, State.buffer]
@[simp] theorem mapStreams_pool (s : State) (f : StreamId → Stream → Stream) (k : PoolId) :
    (s.mapStreams f).pool k = s.pool k := by
  simp only [State.mapStreams, State.pool]
@[simp] theorem mapStreams_timer (s : State) (f : StreamId → Stream → Stream) (i : TimerId) :
    (s.mapStreams f).timer i = s.timer i := by
  simp only [State.mapStreams, State.timer]
@[simp] theorem mapStreams_port (s : State) (f : StreamId → Stream → Stream) (p : Port) :
    (s.mapStreams f).port p = s.port p := by
  simp only [State.mapStreams, State.port]
@[simp] theorem mapTimers_buffer (s : State) (f : TimerId → Timer → Timer) (b : BufferId) :
    (s.mapTimers f).buffer b = s.buffer b := by
  simp only [State.mapTimers, State.buffer]
@[simp] theorem mapTimers_pool (s : State) (f : TimerId → Timer → Timer) (k : PoolId) :
    (s.mapTimers f).pool k = s.pool k := by
  simp only [State.mapTimers, State.pool]
@[simp] theorem mapTimers_stream (s : State) (f : TimerId → Timer → Timer) (st : StreamId) :
    (s.mapTimers f).stream st = s.stream st := by
  simp only [State.mapTimers, State.stream]
@[simp] theorem mapTimers_port (s : State) (f : TimerId → Timer → Timer) (p : Port) :
    (s.mapTimers f).port p = s.port p := by
  simp only [State.mapTimers, State.port]
@[simp] theorem mapBuffers_addressed (s : State) (f : BufferId → Buffer → Buffer) : (s.mapBuffers f).addressed = s.addressed := by
  simp only [State.mapBuffers]
@[simp] theorem mapBuffers_phase (s : State) (f : BufferId → Buffer → Buffer) : (s.mapBuffers f).phase = s.phase := by
  simp only [State.mapBuffers]
@[simp] theorem mapBuffers_resetN (s : State) (f : BufferId → Buffer → Buffer) : (s.mapBuffers f).resetN = s.resetN := by
  simp only [State.mapBuffers]
@[simp] theorem mapBuffers_supplies (s : State) (f : BufferId → Buffer → Buffer) : (s.mapBuffers f).supplies = s.supplies := by
  simp only [State.mapBuffers]
@[simp] theorem mapBuffers_choices (s : State) (f : BufferId → Buffer → Buffer) : (s.mapBuffers f).choices = s.choices := by
  simp only [State.mapBuffers]
@[simp] theorem mapBuffers_pending (s : State) (f : BufferId → Buffer → Buffer) : (s.mapBuffers f).pending = s.pending := by
  simp only [State.mapBuffers]
@[simp] theorem mapPools_addressed (s : State) (f : PoolId → Pool → Pool) : (s.mapPools f).addressed = s.addressed := by
  simp only [State.mapPools]
@[simp] theorem mapPools_phase (s : State) (f : PoolId → Pool → Pool) : (s.mapPools f).phase = s.phase := by
  simp only [State.mapPools]
@[simp] theorem mapPools_resetN (s : State) (f : PoolId → Pool → Pool) : (s.mapPools f).resetN = s.resetN := by
  simp only [State.mapPools]
@[simp] theorem mapPools_supplies (s : State) (f : PoolId → Pool → Pool) : (s.mapPools f).supplies = s.supplies := by
  simp only [State.mapPools]
@[simp] theorem mapPools_choices (s : State) (f : PoolId → Pool → Pool) : (s.mapPools f).choices = s.choices := by
  simp only [State.mapPools]
@[simp] theorem mapPools_pending (s : State) (f : PoolId → Pool → Pool) : (s.mapPools f).pending = s.pending := by
  simp only [State.mapPools]
@[simp] theorem mapStreams_addressed (s : State) (f : StreamId → Stream → Stream) : (s.mapStreams f).addressed = s.addressed := by
  simp only [State.mapStreams]
@[simp] theorem mapStreams_phase (s : State) (f : StreamId → Stream → Stream) : (s.mapStreams f).phase = s.phase := by
  simp only [State.mapStreams]
@[simp] theorem mapStreams_resetN (s : State) (f : StreamId → Stream → Stream) : (s.mapStreams f).resetN = s.resetN := by
  simp only [State.mapStreams]
@[simp] theorem mapStreams_supplies (s : State) (f : StreamId → Stream → Stream) : (s.mapStreams f).supplies = s.supplies := by
  simp only [State.mapStreams]
@[simp] theorem mapStreams_choices (s : State) (f : StreamId → Stream → Stream) : (s.mapStreams f).choices = s.choices := by
  simp only [State.mapStreams]
@[simp] theorem mapStreams_pending (s : State) (f : StreamId → Stream → Stream) : (s.mapStreams f).pending = s.pending := by
  simp only [State.mapStreams]
@[simp] theorem mapTimers_addressed (s : State) (f : TimerId → Timer → Timer) : (s.mapTimers f).addressed = s.addressed := by
  simp only [State.mapTimers]
@[simp] theorem mapTimers_phase (s : State) (f : TimerId → Timer → Timer) : (s.mapTimers f).phase = s.phase := by
  simp only [State.mapTimers]
@[simp] theorem mapTimers_resetN (s : State) (f : TimerId → Timer → Timer) : (s.mapTimers f).resetN = s.resetN := by
  simp only [State.mapTimers]
@[simp] theorem mapTimers_supplies (s : State) (f : TimerId → Timer → Timer) : (s.mapTimers f).supplies = s.supplies := by
  simp only [State.mapTimers]
@[simp] theorem mapTimers_choices (s : State) (f : TimerId → Timer → Timer) : (s.mapTimers f).choices = s.choices := by
  simp only [State.mapTimers]
@[simp] theorem mapTimers_pending (s : State) (f : TimerId → Timer → Timer) : (s.mapTimers f).pending = s.pending := by
  simp only [State.mapTimers]

/-! ### modBuffer -/

section modBuffer
variable (s : State) (b : BufferId) (f : Buffer → Buffer)

@[simp] theorem modBuffer_buffer_same : (s.modBuffer b f).buffer b = f (s.buffer b) := get_set_same ..
theorem modBuffer_buffer (c : BufferId) :
    (s.modBuffer b f).buffer c = if c = b then f (s.buffer b) else s.buffer c := get_set ..
@[simp] theorem modBuffer_buffer_of_ne {c : BufferId} (h : c ≠ b) : (s.modBuffer b f).buffer c = s.buffer c := by
  simp [modBuffer_buffer, h]
@[simp] theorem modBuffer_pool (k : PoolId) : (s.modBuffer b f).pool k = s.pool k := rfl
@[simp] theorem modBuffer_stream (st : StreamId) : (s.modBuffer b f).stream st = s.stream st := rfl
@[simp] theorem modBuffer_timer (t : TimerId) : (s.modBuffer b f).timer t = s.timer t := rfl
@[simp] theorem modBuffer_port (p : Port) : (s.modBuffer b f).port p = s.port p := rfl
@[simp] theorem modBuffer_pools : (s.modBuffer b f).pools = s.pools := rfl
@[simp] theorem modBuffer_streams : (s.modBuffer b f).streams = s.streams := rfl
@[simp] theorem modBuffer_timers : (s.modBuffer b f).timers = s.timers := rfl
@[simp] theorem modBuffer_ports : (s.modBuffer b f).ports = s.ports := rfl
@[simp] theorem modBuffer_addressed : (s.modBuffer b f).addressed = s.addressed := rfl
@[simp] theorem modBuffer_phase : (s.modBuffer b f).phase = s.phase := rfl
@[simp] theorem modBuffer_resetN : (s.modBuffer b f).resetN = s.resetN := rfl
@[simp] theorem modBuffer_supplies : (s.modBuffer b f).supplies = s.supplies := rfl
@[simp] theorem modBuffer_choices : (s.modBuffer b f).choices = s.choices := rfl
@[simp] theorem modBuffer_pending : (s.modBuffer b f).pending = s.pending := rfl

end modBuffer

/-! ### modPool -/

section modPool
variable (s : State) (k : PoolId) (f : Pool → Pool)

@[simp] theorem modPool_pool_same : (s.modPool k f).pool k = f (s.pool k) := get_set_same ..
theorem modPool_pool (j : PoolId) : (s.modPool k f).pool j = if j = k then f (s.pool k) else s.pool j := get_set ..
@[simp] theorem modPool_pool_of_ne {j : PoolId} (h : j ≠ k) : (s.modPool k f).pool j = s.pool j := by
  simp [modPool_pool, h]
@[simp] theorem modPool_buffer (b : BufferId) : (s.modPool k f).buffer b = s.buffer b := rfl
@[simp] theorem modPool_stream (st : StreamId) : (s.modPool k f).stream st = s.stream st := rfl
@[simp] theorem modPool_timer (t : TimerId) : (s.modPool k f).timer t = s.timer t := rfl
@[simp] theorem modPool_port (p : Port) : (s.modPool k f).port p = s.port p := rfl
@[simp] theorem modPool_buffers : (s.modPool k f).buffers = s.buffers := rfl
@[simp] theorem modPool_streams : (s.modPool k f).streams = s.streams := rfl
@[simp] theorem modPool_timers : (s.modPool k f).timers = s.timers := rfl
@[simp] theorem modPool_ports : (s.modPool k f).ports = s.ports := rfl
@[simp] theorem modPool_addressed : (s.modPool k f).addressed = s.addressed := rfl
@[simp] theorem modPool_phase : (s.modPool k f).phase = s.phase := rfl
@[simp] theorem modPool_resetN : (s.modPool k f).resetN = s.resetN := rfl
@[simp] theorem modPool_supplies : (s.modPool k f).supplies = s.supplies := rfl
@[simp] theorem modPool_choices : (s.modPool k f).choices = s.choices := rfl
@[simp] theorem modPool_pending : (s.modPool k f).pending = s.pending := rfl

end modPool

/-! ### modStream -/

section modStream
variable (s : State) (st : StreamId) (f : Stream → Stream)

@[simp] theorem modStream_stream_same : (s.modStream st f).stream st = f (s.stream st) := get_set_same ..
theorem modStream_stream (u : StreamId) :
    (s.modStream st f).stream u = if u = st then f (s.stream st) else s.stream u := get_set ..
@[simp] theorem modStream_stream_of_ne {u : StreamId} (h : u ≠ st) : (s.modStream st f).stream u = s.stream u := by
  simp [modStream_stream, h]
@[simp] theorem modStream_buffer (b : BufferId) : (s.modStream st f).buffer b = s.buffer b := rfl
@[simp] theorem modStream_pool (k : PoolId) : (s.modStream st f).pool k = s.pool k := rfl
@[simp] theorem modStream_timer (t : TimerId) : (s.modStream st f).timer t = s.timer t := rfl
@[simp] theorem modStream_port (p : Port) : (s.modStream st f).port p = s.port p := rfl
@[simp] theorem modStream_buffers : (s.modStream st f).buffers = s.buffers := rfl
@[simp] theorem modStream_pools : (s.modStream st f).pools = s.pools := rfl
@[simp] theorem modStream_timers : (s.modStream st f).timers = s.timers := rfl
@[simp] theorem modStream_ports : (s.modStream st f).ports = s.ports := rfl
@[simp] theorem modStream_addressed : (s.modStream st f).addressed = s.addressed := rfl
@[simp] theorem modStream_phase : (s.modStream st f).phase = s.phase := rfl
@[simp] theorem modStream_resetN : (s.modStream st f).resetN = s.resetN := rfl
@[simp] theorem modStream_supplies : (s.modStream st f).supplies = s.supplies := rfl
@[simp] theorem modStream_choices : (s.modStream st f).choices = s.choices := rfl
@[simp] theorem modStream_pending : (s.modStream st f).pending = s.pending := rfl
@[simp] theorem modStream_outstanding (u : StreamId) : (s.modStream st f).outstanding u = s.outstanding u := rfl

end modStream

/-! ### modTimer -/

section modTimer
variable (s : State) (t : TimerId) (f : Timer → Timer)

@[simp] theorem modTimer_timer_same : (s.modTimer t f).timer t = f (s.timer t) := get_set_same ..
theorem modTimer_timer (u : TimerId) : (s.modTimer t f).timer u = if u = t then f (s.timer t) else s.timer u := get_set ..
@[simp] theorem modTimer_timer_of_ne {u : TimerId} (h : u ≠ t) : (s.modTimer t f).timer u = s.timer u := by
  simp [modTimer_timer, h]
@[simp] theorem modTimer_buffer (b : BufferId) : (s.modTimer t f).buffer b = s.buffer b := rfl
@[simp] theorem modTimer_pool (k : PoolId) : (s.modTimer t f).pool k = s.pool k := rfl
@[simp] theorem modTimer_stream (st : StreamId) : (s.modTimer t f).stream st = s.stream st := rfl
@[simp] theorem modTimer_port (p : Port) : (s.modTimer t f).port p = s.port p := rfl
@[simp] theorem modTimer_buffers : (s.modTimer t f).buffers = s.buffers := rfl
@[simp] theorem modTimer_pools : (s.modTimer t f).pools = s.pools := rfl
@[simp] theorem modTimer_streams : (s.modTimer t f).streams = s.streams := rfl
@[simp] theorem modTimer_ports : (s.modTimer t f).ports = s.ports := rfl
@[simp] theorem modTimer_addressed : (s.modTimer t f).addressed = s.addressed := rfl
@[simp] theorem modTimer_phase : (s.modTimer t f).phase = s.phase := rfl
@[simp] theorem modTimer_resetN : (s.modTimer t f).resetN = s.resetN := rfl
@[simp] theorem modTimer_supplies : (s.modTimer t f).supplies = s.supplies := rfl
@[simp] theorem modTimer_choices : (s.modTimer t f).choices = s.choices := rfl
@[simp] theorem modTimer_pending : (s.modTimer t f).pending = s.pending := rfl

end modTimer

/-! ### modPort -/

section modPort
variable (s : State) (p : Port) (f : PortRecord → PortRecord)

@[simp] theorem modPort_port_same : (s.modPort p f).port p = f (s.port p) := get_set_same ..
theorem modPort_port (q : Port) : (s.modPort p f).port q = if q = p then f (s.port p) else s.port q := get_set ..
@[simp] theorem modPort_port_of_ne {q : Port} (h : q ≠ p) : (s.modPort p f).port q = s.port q := by
  simp [modPort_port, h]
@[simp] theorem modPort_buffer (b : BufferId) : (s.modPort p f).buffer b = s.buffer b := rfl
@[simp] theorem modPort_pool (k : PoolId) : (s.modPort p f).pool k = s.pool k := rfl
@[simp] theorem modPort_stream (st : StreamId) : (s.modPort p f).stream st = s.stream st := rfl
@[simp] theorem modPort_timer (t : TimerId) : (s.modPort p f).timer t = s.timer t := rfl
@[simp] theorem modPort_buffers : (s.modPort p f).buffers = s.buffers := rfl
@[simp] theorem modPort_pools : (s.modPort p f).pools = s.pools := rfl
@[simp] theorem modPort_streams : (s.modPort p f).streams = s.streams := rfl
@[simp] theorem modPort_timers : (s.modPort p f).timers = s.timers := rfl
@[simp] theorem modPort_addressed : (s.modPort p f).addressed = s.addressed := rfl
@[simp] theorem modPort_phase : (s.modPort p f).phase = s.phase := rfl
@[simp] theorem modPort_resetN : (s.modPort p f).resetN = s.resetN := rfl
@[simp] theorem modPort_supplies : (s.modPort p f).supplies = s.supplies := rfl
@[simp] theorem modPort_choices : (s.modPort p f).choices = s.choices := rfl
@[simp] theorem modPort_pending : (s.modPort p f).pending = s.pending := rfl
@[simp] theorem modPort_outstanding (st : StreamId) : (s.modPort p f).outstanding st = s.outstanding st := rfl
theorem modPort_modPort (g : PortRecord → PortRecord) :
    (s.modPort p f).modPort p g = s.modPort p fun r => g (f r) := by
  simp [State.modPort, State.port, get_set_same]
theorem modPort_congr {g : PortRecord → PortRecord} (h : f (s.port p) = g (s.port p)) : s.modPort p f = s.modPort p g := by
  simp [State.modPort, h]
theorem modPort_eq_self (h : f (s.port p) = s.port p) : s.modPort p f = s := by
  unfold State.modPort
  rw [h]
  simp [State.port, set_get_same]

end modPort

/-! ### Slots -/

@[simp] theorem modSlot_slot_same (x : Stream) (c : SlotId) (f : Slot → Slot) : (x.modSlot c f).slot c = f (x.slot c) :=
  get_set_same ..
theorem modSlot_slot (x : Stream) (c d : SlotId) (f : Slot → Slot) :
    (x.modSlot c f).slot d = if d = c then f (x.slot c) else x.slot d := get_set ..

/-! ### Updates of different records commute -/

theorem modTimer_modPort (s : State) (t : TimerId) (p : Port) (f : Timer → Timer) (g : PortRecord → PortRecord) :
    (s.modPort p g).modTimer t f = (s.modTimer t f).modPort p g := rfl
theorem modPool_modPort (s : State) (k : PoolId) (p : Port) (f : Pool → Pool) (g : PortRecord → PortRecord) :
    (s.modPort p g).modPool k f = (s.modPool k f).modPort p g := rfl
theorem modStream_modPort (s : State) (st : StreamId) (p : Port) (f : Stream → Stream) (g : PortRecord → PortRecord) :
    (s.modPort p g).modStream st f = (s.modStream st f).modPort p g := rfl
theorem modBuffer_modPort (s : State) (b : BufferId) (p : Port) (f : Buffer → Buffer) (g : PortRecord → PortRecord) :
    (s.modPort p g).modBuffer b f = (s.modBuffer b f).modPort p g := rfl

/-! ### The reset state -/

@[simp] theorem reset_buffer (b : BufferId) : State.reset.buffer b = Buffer.reset := by
  simp [State.buffer, State.reset, Vector.get]
@[simp] theorem reset_pool (k : PoolId) : State.reset.pool k = Pool.reset := by
  simp [State.pool, State.reset, Vector.get]
@[simp] theorem reset_stream (st : StreamId) : State.reset.stream st = Stream.cleared := by
  simp [State.stream, State.reset, Vector.get]
@[simp] theorem reset_timer (i : TimerId) : State.reset.timer i = Timer.reset := by
  simp [State.timer, State.reset, Vector.get]
@[simp] theorem reset_port (p : Port) : State.reset.port p = PortRecord.reset := by
  simp [State.port, State.reset, Vector.get]

end Sys2Proof.Machine
end

