-- ==== Sys2Proof/Laws/Operands.lean ====
section
/-!
SUPPORT. The operand forms of Machine/Operands.lean: numbers of objects as bytes and back, and the searches for a lowest record.
-/

namespace Sys2Proof.Machine

theorem byte_toNat {n : Nat} (h : n < 256) : (byte n).toNat = n := by
  simp [byte, Nat.mod_eq_of_lt h]

/-- The byte of a number names that number. -/
theorem index?_byte {n : Nat} (i : Fin n) (h : n ≤ 256) : index? n (byte i.val) = some i := by
  have hi : (byte i.val).toNat = i.val := byte_toNat (by omega)
  simp [index?, hi]

@[simp] theorem index?_four (i : Fin 4) : index? 4 (byte i.val) = some i := index?_byte i (by decide)
@[simp] theorem index?_sixteen (i : Fin 16) : index? 16 (byte i.val) = some i := index?_byte i (by decide)
@[simp] theorem index?_sixtyFour (i : Fin 64) : index? 64 (byte i.val) = some i := index?_byte i (by decide)

/-- A byte above the last number names none. -/
theorem index?_none {n : Nat} {b : Byte} (h : n - 1 < b.toNat) : index? n b = none := by
  have : ¬ b.toNat < n := by omega
  simp [index?, this]

theorem index?_eq_none {n : Nat} {b : Byte} : index? n b = none ↔ n ≤ b.toNat := by
  unfold index?
  split <;> simp_all

/-- The lowest element of `List.finRange` with a property, where every lower one lacks it. -/
theorem find?_finRange {n : Nat} {q : Fin n → Bool} {i : Fin n} (h : q i = true) (low : ∀ j, j < i → q j = false) :
    (List.finRange n).find? q = some i := by
  rw [List.find?_eq_some_iff_append]
  refine ⟨h, (List.finRange n).take i.val, (List.finRange n).drop (i.val + 1), ?_, ?_⟩
  · conv_lhs => rw [← List.take_append_drop i.val (List.finRange n)]
    rw [List.drop_eq_getElem_cons (by simp)]
    simp
  · intro a ha
    obtain ⟨k, hk, rfl⟩ := List.mem_take_iff_getElem.mp ha
    simp only [List.length_finRange, lt_inf_iff] at hk
    have := low ⟨k, hk.2⟩ (Fin.lt_def.mpr hk.1)
    simpa using this

theorem find?_finRange_none {n : Nat} {q : Fin n → Bool} (h : ∀ i, q i = false) : (List.finRange n).find? q = none := by
  simp [List.find?_eq_none, h]

theorem allPorts_eq : allPorts = List.finRange 4 := by decide
theorem allPools_eq : allPools = List.finRange 4 := by decide
theorem allTimers_eq : allTimers = List.finRange 4 := by decide
theorem allSlots_eq : allSlots = List.finRange 3 := by decide
theorem allStreams_eq : allStreams = List.finRange 16 := by decide
theorem allBuffers_eq : allBuffers = List.finRange 64 := List.ofFn_id 64

@[simp] theorem mem_allPorts (p : Port) : p ∈ allPorts := by simp [allPorts_eq]
@[simp] theorem mem_allPools (k : PoolId) : k ∈ allPools := by simp [allPools_eq]
@[simp] theorem mem_allTimers (t : TimerId) : t ∈ allTimers := by simp [allTimers_eq]
@[simp] theorem mem_allSlots (c : SlotId) : c ∈ allSlots := by simp [allSlots_eq]
@[simp] theorem mem_allStreams (st : StreamId) : st ∈ allStreams := by simp [allStreams_eq]
@[simp] theorem mem_allBuffers (b : BufferId) : b ∈ allBuffers := by simp [allBuffers_eq]

/-! ### Slots of a stream -/

theorem slotOf_eq_none {x : Stream} {p : Port} :
    x.slotOf p = none ↔ ∀ c, ¬((x.slot c).occupied = true ∧ (x.slot c).port = some p) := by
  have : ([0, 1, 2] : List SlotId) = List.finRange 3 := by decide
  unfold Stream.slotOf
  rw [this, List.find?_eq_none]
  simp

/-- The slot of a port: the lowest that it occupies. -/
theorem slotOf_eq_some {x : Stream} {p : Port} {c : SlotId} (ho : (x.slot c).occupied = true)
    (hp : (x.slot c).port = some p) (low : ∀ d, d < c → ¬((x.slot d).occupied = true ∧ (x.slot d).port = some p)) :
    x.slotOf p = some c := by
  have : ([0, 1, 2] : List SlotId) = List.finRange 3 := by decide
  unfold Stream.slotOf
  rw [this]
  refine find?_finRange (by simp [ho, hp]) fun d hd => ?_
  have := low d hd
  cases ho' : (x.slot d).occupied <;> simp_all

theorem slotOf_isSome {x : Stream} {p : Port} :
    (x.slotOf p).isSome = true ↔ ∃ c, (x.slot c).occupied = true ∧ (x.slot c).port = some p := by
  have h := @slotOf_eq_none x p
  cases hx : x.slotOf p with
  | none => simpa using h.mp hx
  | some c =>
    simp only [Option.isSome_some, true_iff]
    by_contra hn
    have : x.slotOf p = none := h.mpr fun d hd => hn ⟨d, hd⟩
    simp [hx] at this

theorem freeSlot_eq_none {x : Stream} : x.freeSlot = none ↔ ∀ c, (x.slot c).occupied = true := by
  have : ([0, 1, 2] : List SlotId) = List.finRange 3 := by decide
  unfold Stream.freeSlot
  rw [this, List.find?_eq_none]
  simp

theorem freeSlot_eq_some {x : Stream} {c : SlotId} (ho : (x.slot c).occupied = false)
    (low : ∀ d, d < c → (x.slot d).occupied = true) : x.freeSlot = some c := by
  have : ([0, 1, 2] : List SlotId) = List.finRange 3 := by decide
  unfold Stream.freeSlot
  rw [this]
  exact find?_finRange (by simp [ho]) fun d hd => by simp [low d hd]

theorem forall_slot {q : SlotId → Prop} : (∀ c, q c) ↔ q 0 ∧ q 1 ∧ q 2 := by
  constructor
  · exact fun h => ⟨h 0, h 1, h 2⟩
  · rintro ⟨h0, h1, h2⟩ c
    match c with
    | 0 => exact h0
    | 1 => exact h1
    | 2 => exact h2

theorem exists_slot {q : SlotId → Prop} : (∃ c, q c) ↔ q 0 ∨ q 1 ∨ q 2 := by
  constructor
  · rintro ⟨c, h⟩
    match c, h with
    | 0, h => exact Or.inl h
    | 1, h => exact Or.inr (Or.inl h)
    | 2, h => exact Or.inr (Or.inr h)
  · rintro (h | h | h) <;> exact ⟨_, h⟩

theorem isMember_eq_true {x : Stream} {p : Port} :
    x.isMember p = true ↔ x.producer = some p ∨ ∃ c, (x.slot c).occupied = true ∧ (x.slot c).port = some p := by
  rw [exists_slot]
  simp [Stream.isMember, or_assoc]

theorem hasMember_eq_true {x : Stream} :
    x.hasMember = true ↔ x.producer ≠ none ∨ ∃ c, (x.slot c).occupied = true := by
  rw [exists_slot]
  simp [Stream.hasMember, Stream.occupied, SlotSet.nonempty, Option.isSome_iff_ne_none, or_assoc]

/-- Every occupied slot stands in the set. -/
theorem covers_occupied {x : Stream} {y : SlotSet} :
    y.covers x.occupied = true ↔ ∀ c, (x.slot c).occupied = true → y.has c = true := by
  rw [forall_slot]
  simp only [SlotSet.covers, Stream.occupied, SlotSet.has, Bool.and_eq_true, Bool.or_eq_true, Bool.not_eq_true']
  constructor
  · rintro ⟨⟨h0, h1⟩, h2⟩
    refine ⟨?_, ?_, ?_⟩ <;> intro h <;> simp_all
  · rintro ⟨h0, h1, h2⟩
    refine ⟨⟨?_, ?_⟩, ?_⟩
    · cases h : (x.slot 0).occupied <;> simp_all
    · cases h : (x.slot 1).occupied <;> simp_all
    · cases h : (x.slot 2).occupied <;> simp_all

theorem nonempty_occupied {x : Stream} :
    x.occupied.nonempty = true ↔ ∃ c, (x.slot c).occupied = true := by
  rw [exists_slot]
  simp [Stream.occupied, SlotSet.nonempty, or_assoc]

/-! ### The banks as lists -/

theorem streams_toList (s : State) : s.streams.toList = allStreams.map s.stream := by
  rw [allStreams_eq]
  apply List.ext_getElem
  · simp
  · intro i h1 h2
    simp [State.stream, Vector.get_eq_getElem]

theorem poolNamed_eq_true {s : State} {k : PoolId} :
    s.poolNamed k = true ↔ ∃ st, (s.stream st).state ≠ .closed ∧ (s.stream st).pool = k := by
  simp [State.poolNamed, streams_toList]

/-- Every buffer of a list unregistered, whatever the order. -/
theorem unregisterAll_eq (l : List BufferId) (t : State) :
    unregisterAll l t = t.mapBuffers fun b r => if b ∈ l then r.unregistered else r := by
  induction l generalizing t with
  | nil => apply state_ext <;> simp [unregisterAll]
  | cons c l ih =>
    have h : unregisterAll (c :: l) t = unregisterAll l (t.modBuffer c Buffer.unregistered) := rfl
    rw [h, ih]
    apply state_ext <;> try simp
    intro b
    by_cases hb : b = c <;> by_cases hl : b ∈ l <;> simp_all [Buffer.unregistered]

/-! ### The outstanding count (R22) -/

theorem outstanding_eq (s : State) (st : StreamId) :
    s.outstanding st = allBuffers.countP fun b => (s.buffer b).stream == some st := by
  have h : s.buffers.toList = allBuffers.map s.buffer := by
    rw [allBuffers_eq]
    apply List.ext_getElem
    · simp
    · intro i h1 h2
      simp [State.buffer, Vector.get_eq_getElem]
  rw [State.outstanding, h, List.countP_map]
  rfl

theorem outstanding_eq_zero {s : State} {st : StreamId} :
    s.outstanding st = 0 ↔ ∀ b, (s.buffer b).stream ≠ some st := by
  simp [outstanding_eq, List.countP_eq_zero]

end Sys2Proof.Machine
end

