-- ==== Sys2Proof/Laws/Link.lean ====
section
/-!
SUPPORT. What a transaction and the taking of a frame do (Machine/Link.lean), in the words of Safety.lean.
-/

namespace Sys2Proof.Machine

/-- The port as it is while its window is open. -/
def State.opened (s : State) (p : Port) : State := s.modPort p fun r => { r with select := .low (s.window p) }

/-- The window of a port that serves the transaction is open before the transaction is judged. -/
theorem openWindow_eq {s : State} {p : Port} (h : s.serves p = true) : openWindow p s = s.opened p := by
  unfold State.serves at h
  unfold openWindow State.opened State.window fallOfSelect
  cases hs : (s.port p).select with
  | high =>
    have hp : s.phase = .serving := by simpa [hs] using h
    simp only [if_true, hp, and_self]
    exact modPort_congr _ _ _ rfl
  | low w =>
    simp only [reduceCtorEq, if_false]
    exact (modPort_eq_self _ _ _ (by rw [← hs])).symm
  | void => simp [hs] at h

/-- A served transaction: its effect on the opened port, then select high and the bytes shifted out. -/
theorem transaction_served {s : State} {p : Port} (h : s.serves p = true) (out : Window → List Byte)
    (effect : Window → State → State) :
    transaction p out effect s =
      (effect (s.window p) (s.opened p)).modPort p
        fun r => { r with select := .high, shifted := some (out (s.window p)) } := by
  unfold transaction
  rw [openWindow_eq h]
  simp [State.opened]

/-- A transaction that is not served: nothing but select and the bytes shifted out changes. -/
theorem transaction_void {s : State} {p : Port} (h : s.serves p = false) (out : Window → List Byte)
    (effect : Window → State → State) :
    transaction p out effect s = s.modPort p fun r => { r with select := .high, shifted := none } := by
  unfold State.serves at h
  unfold transaction openWindow fallOfSelect
  cases hs : (s.port p).select with
  | high =>
    have hp : s.phase ≠ .serving := by simp_all
    simp [hp, State.modPort, State.port, get_set_same]
  | low w => simp_all
  | void => simp [hs]

/-- A first byte names no transaction exactly when it is none of the codes of Table 10-1. -/
theorem transactionOf_eq_none {first : Byte} : transactionOf first = none ↔ first ∉ [0x01, 0x02, 0x03, 0x04] := by
  unfold transactionOf
  repeat' split
  all_goals simp_all

theorem codeOf_injective : ∀ a b : RequestName, codeOf a = codeOf b → a = b := by
  intro a b h
  cases a <;> cases b <;> first | rfl | (exfalso; revert h; decide)

theorem judge_taken {s : State} {p : Port} {tag code : Byte} {payload : List Byte}
    (h : s.takes p tag code payload = true) :
    ((s.opened p).port p).judge tag code (frameCrc tag code payload) = .taken := by
  simp only [State.takes, Bool.and_eq_true, beq_iff_eq, decide_eq_true_eq, Bool.not_eq_true'] at h
  obtain ⟨⟨⟨⟨_, ha⟩, hw⟩, _⟩, hm⟩ := h
  have hm' : ((s.opened p).port p).replayMatch tag code (frameCrc tag code payload) = none := by
    simp only [State.opened, modPort_port_same, PortRecord.replayMatch]
    unfold PortRecord.matchesReplay at hm
    cases hr : (s.port p).replay with
    | none => rfl
    | some m =>
      rw [hr] at hm
      simp only at hm
      have hf : m.matchesFrame tag code (frameCrc tag code payload) = false := hm
      simp [hf]
  unfold PortRecord.judge
  rw [hm']
  simp [State.opened, ha, Config.requestWindow, Nat.not_le.mpr hw]

theorem judge_taken_detached {s : State} {p : Port} {tag code : Byte} {payload : List Byte}
    (h : s.takesDetached p code payload = true) :
    ((s.opened p).port p).judge tag code (frameCrc tag code payload) = .taken := by
  simp only [State.takesDetached, Bool.and_eq_true, beq_iff_eq, decide_eq_true_eq, Bool.or_eq_true] at h
  obtain ⟨⟨⟨⟨_, ha⟩, hw⟩, _⟩, hn⟩ := h
  have hm' : ((s.opened p).port p).replayMatch tag code (frameCrc tag code payload) = none := by
    simp only [State.opened, modPort_port_same, PortRecord.replayMatch]
    cases (s.port p).replay <;> simp [ha]
  unfold PortRecord.judge
  rw [hm']
  rcases hn with rfl | rfl <;> simp [State.opened, ha, codeOf, Config.requestWindow, Nat.not_le.mpr hw]

theorem records_eq (s : State) (p : Port) (tag code : Byte) :
    ((s.opened p).port p).records tag code = s.recorded p tag code := by
  simp [PortRecord.records, State.recorded, State.opened, codeOf]

theorem takeFrame_opened (s : State) (p : Port) (tag code : Byte) (payload : List Byte) :
    (s.opened p).modPort p (takeFrame tag code (frameCrc tag code payload)) = s.taken p tag code payload := by
  have hr := records_eq s p tag code
  simp only [State.opened, modPort_port_same] at hr
  unfold State.opened State.taken
  rw [modPort_modPort]
  unfold State.modPort takeFrame
  simp only
  rw [hr]

/-- The Request Engine on a frame that is taken: the request's own effect, between the taking of the frame and the response; then
the lease renewed. -/
theorem engine_of_judge {s : State} {p : Port} {tag code : Byte} {payload : List Byte}
    (hj : ((s.opened p).port p).judge tag code (frameCrc tag code payload) = .taken) (body : State → Served) :
    engine p tag code (frameCrc tag code payload) body (s.opened p) =
      renewLease p (match body (s.taken p tag code payload) with
        | (t, some reply) => completeRequest p (s.recorded p tag code) ⟨tag, code, reply.result, reply.data⟩ t
        | (t, none) => t) := by
  unfold engine
  rw [hj]
  simp only
  unfold executeRequest
  rcases hb : body (s.taken p tag code payload) with ⟨t, _ | q⟩ <;> simp only [takeFrame_opened, records_eq, hb]

/-- A SEND window whose frame is taken. -/
theorem send_of_judge {s : State} {p : Port} {tag code : Byte} {payload : List Byte}
    (hs : s.serves p = true)
    (hj : ((s.opened p).port p).judge tag code (frameCrc tag code payload) = .taken) (body : State → Served) :
    transaction p (statusThen (payload.length + 4))
        (fun _ t => engine p tag code (frameCrc tag code payload) body t) s =
      match body (s.taken p tag code payload) with
      | (t, some reply) => s.responds p tag code payload reply.result reply.data t
      | (t, none) => s.sends p payload t := by
  rw [transaction_served hs]
  simp only [engine_of_judge hj]
  cases hb : body (s.taken p tag code payload) with
  | mk t reply =>
    cases reply with
    | none =>
      simp only [State.sends, State.closes, State.shuts, State.shiftsOut, renewLease, modPort_modPort]
      congr 1
      funext r
      by_cases h : r.state = .attached <;> simp [h, statusThen, PortRecord.fullLease, Config.unitsPerLeaseUnit]
    | some q =>
      simp only [State.responds, State.sends, State.closes, State.shuts, State.shiftsOut, completeRequest, queueResponse,
        renewLease, modPort_modPort]
      congr 1
      funext r
      by_cases h : r.state = .attached <;> simp [h, statusThen, PortRecord.fullLease, Config.unitsPerLeaseUnit]

/-- A payload that fits makes a request row a SEND window with a frame. -/
theorem sendRequest_eq {p : Port} {tag : Byte} {name : RequestName} {payload : List Byte} (hl : payload.length ≤ 32)
    (body : State → Served) (s : State) :
    sendRequest p tag name payload body s =
      transaction p (statusThen (payload.length + 4))
        (fun _ t => engine p tag (codeOf name) (frameCrc tag (codeOf name) payload) body t) s := by
  have hl' : ¬ Config.maxPayload < payload.length := by simp [Config.maxPayload]; omega
  simp only [sendRequest, hl', if_false]

/-- A request taken from an ATTACHED port. -/
theorem sendRequest_taken {s : State} {p : Port} {tag : Byte} {name : RequestName} {payload : List Byte}
    (h : s.takes p tag (codeOf name) payload = true) (body : State → Served) :
    sendRequest p tag name payload body s =
      match body (s.taken p tag (codeOf name) payload) with
      | (t, some reply) => s.responds p tag (codeOf name) payload reply.result reply.data t
      | (t, none) => s.sends p payload t := by
  have h' := h
  simp only [State.takes, Bool.and_eq_true, decide_eq_true_eq] at h'
  rw [sendRequest_eq h'.1.2]
  exact send_of_judge h'.1.1.1.1 (judge_taken h) body

/-- A request taken from a DETACHED port. -/
theorem sendRequest_taken_detached {s : State} {p : Port} {tag : Byte} {name : RequestName} {payload : List Byte}
    (h : s.takesDetached p (codeOf name) payload = true) (body : State → Served) :
    sendRequest p tag name payload body s =
      match body (s.taken p tag (codeOf name) payload) with
      | (t, some reply) => s.responds p tag (codeOf name) payload reply.result reply.data t
      | (t, none) => s.sends p payload t := by
  have h' := h
  simp only [State.takesDetached, Bool.and_eq_true, decide_eq_true_eq] at h'
  rw [sendRequest_eq h'.1.2]
  exact send_of_judge h'.1.1.1.1 (judge_taken_detached h) body

/-- A request taken from an ATTACHED port and completed. -/
theorem sendRequest_responds {s t : State} {p : Port} {tag : Byte} {name : RequestName} {payload : List Byte}
    {body : State → Served} {r : ResultCode} {data : List Byte} (h : s.takes p tag (codeOf name) payload = true)
    (hb : body (s.taken p tag (codeOf name) payload) = (t, some ⟨r, data⟩)) :
    sendRequest p tag name payload body s = s.responds p tag (codeOf name) payload r data t := by
  rw [sendRequest_taken h, hb]

/-- A request taken from an ATTACHED port and refused. -/
theorem sendRequest_refuses {s : State} {p : Port} {tag : Byte} {name : RequestName} {payload : List Byte}
    {body : State → Served} {r : ResultCode} (h : s.takes p tag (codeOf name) payload = true)
    (hb : body (s.taken p tag (codeOf name) payload) = refuse r (s.taken p tag (codeOf name) payload)) :
    sendRequest p tag name payload body s = s.refuses p tag (codeOf name) payload r := by
  rw [sendRequest_taken h, hb]
  rfl

/-- A request taken from an ATTACHED port that parks. -/
theorem sendRequest_parks {s t : State} {p : Port} {tag : Byte} {name : RequestName} {payload : List Byte}
    {body : State → Served} (h : s.takes p tag (codeOf name) payload = true)
    (hb : body (s.taken p tag (codeOf name) payload) = (t, none)) :
    sendRequest p tag name payload body s = s.sends p payload t := by
  rw [sendRequest_taken h, hb]

/-- Every request row is a SEND window with the frame of its request. -/
theorem exec_requestRow (name : RequestName) (p : Port) (tag : Byte) (payload : List Byte) (s : State) :
    exec (requestRow name p tag payload) s =
      .next (sendRequest p tag name payload (requestBody name p tag payload) s) := by
  cases name <;> rfl

theorem requestOfCode_eq_none {code : Byte} (h : ∀ name, codeOf name ≠ code) : requestOfCode code = none := by
  unfold requestOfCode
  rw [List.find?_eq_none]
  intro x _
  simpa using h x

/-! ### The state after the taking of a frame -/

section taken
variable (s : State) (p : Port) (tag code : Byte) (payload : List Byte)

@[simp] theorem taken_buffer (b : BufferId) : (s.taken p tag code payload).buffer b = s.buffer b := rfl
@[simp] theorem taken_pool (k : PoolId) : (s.taken p tag code payload).pool k = s.pool k := rfl
@[simp] theorem taken_stream (st : StreamId) : (s.taken p tag code payload).stream st = s.stream st := rfl
@[simp] theorem taken_timer (i : TimerId) : (s.taken p tag code payload).timer i = s.timer i := rfl
@[simp] theorem taken_outstanding (st : StreamId) :
    (s.taken p tag code payload).outstanding st = s.outstanding st := rfl
@[simp] theorem taken_addressed : (s.taken p tag code payload).addressed = s.addressed := rfl
@[simp] theorem taken_port_state (q : Port) : ((s.taken p tag code payload).port q).state = (s.port q).state := by
  simp only [State.taken, modPort_port]
  split <;> simp_all
@[simp] theorem taken_port_session (q : Port) : ((s.taken p tag code payload).port q).session = (s.port q).session := by
  simp only [State.taken, modPort_port]
  split <;> simp_all
@[simp] theorem taken_port_interval (q : Port) :
    ((s.taken p tag code payload).port q).leaseInterval = (s.port q).leaseInterval := by
  simp only [State.taken, modPort_port]
  split <;> simp_all
@[simp] theorem taken_port_mask (q : Port) : ((s.taken p tag code payload).port q).mask = (s.port q).mask := by
  simp only [State.taken, modPort_port]
  split <;> simp_all

end taken

end Sys2Proof.Machine
end

