-- ==== Sys2Proof/Laws/Ops.lean ====
section
/-!
SUPPORT. What each shared operation of Machine/Ops.lean can do. The operations that queue notices and responses, grant, release and
judge buffers all `Follow`: they keep every field but those named in the structure below. The operations over entries, slots and the
sweep come after them.
-/

namespace Sys2Proof.Machine

/-! ### A port record that receives notices and responses -/

/-- The record `r'` is `r` with notices disposed of and responses added. -/
structure PortRecord.Carries (r r' : PortRecord) : Prop where
  same : r' = { r with notices := r'.notices, lost := r'.lost, noticesLost := r'.noticesLost, responses := r'.responses,
                       replay := r'.replay }
  responses : r.responses <+: r'.responses
  sound : r.Sound → r'.Sound

theorem PortRecord.Carries.refl (r : PortRecord) : r.Carries r := ⟨rfl, List.prefix_refl _, id⟩

theorem PortRecord.Carries.trans {a b c : PortRecord} (h : a.Carries b) (g : b.Carries c) : a.Carries c := by
  refine ⟨?_, h.responses.trans g.responses, g.sound ∘ h.sound⟩
  rw [g.same, h.same]

section Carries
variable {r r' : PortRecord} (h : r.Carries r')
include h

theorem PortRecord.Carries.state : r'.state = r.state := by rw [h.same]
theorem PortRecord.Carries.session : r'.session = r.session := by rw [h.same]
theorem PortRecord.Carries.leaseInterval : r'.leaseInterval = r.leaseInterval := by rw [h.same]
theorem PortRecord.Carries.leaseRemaining : r'.leaseRemaining = r.leaseRemaining := by rw [h.same]
theorem PortRecord.Carries.window : r'.window = r.window := by rw [h.same]
theorem PortRecord.Carries.mask : r'.mask = r.mask := by rw [h.same]
theorem PortRecord.Carries.sweep : r'.sweep = r.sweep := by rw [h.same]
theorem PortRecord.Carries.select : r'.select = r.select := by rw [h.same]
theorem PortRecord.Carries.bnd : r'.bnd = r.bnd := by rw [h.same]

end Carries

/-- Disposal of a notice keeps a sound record sound (R118, R123). -/
theorem PortRecord.Sound.receive {r : PortRecord} (h : r.Sound) (n : Notice) : (r.receive n).Sound := by
  unfold PortRecord.receive
  split_ifs with h1 h2 h3
  · exact h
  · exact h
  · have hs : r.state = .attached := by simpa using h1
    refine { h with notices := ?_, lostFull := ?_, unattached := ?_ }
    · simp [Config.noticeQueueLength] at h3 ⊢; omega
    · intro hl
      have := h.lostFull hl
      simp [Config.noticeQueueLength] at h3; omega
    · intro hn; exact absurd hs hn
  · have hs : r.state = .attached := by simpa using h1
    have hn := h.notices
    refine { h with lost := ?_, lostFull := ?_, unattached := ?_ }
    · simp [Config.saturation]
    · intro _
      have : 16 ≤ r.notices.length := by simpa [Config.noticeQueueLength] using h3
      exact Nat.le_antisymm hn this
    · intro hn; exact absurd hs hn

theorem PortRecord.carries_receive (r : PortRecord) (n : Notice) : r.Carries (r.receive n) := by
  refine ⟨?_, ?_, fun h => h.receive n⟩
  · unfold PortRecord.receive; split_ifs <;> rfl
  · unfold PortRecord.receive; split_ifs <;> exact List.prefix_refl _

@[simp] theorem receive_responses (r : PortRecord) (n : Notice) : (r.receive n).responses = r.responses := by
  unfold PortRecord.receive; split_ifs <;> rfl

/-- A response joins the queue, and the replay record takes the copy it waits for. -/
theorem PortRecord.carries_response (r : PortRecord) (x : Response) (f : Replay → Replay) :
    r.Carries { r with responses := r.responses ++ [x], replay := r.replay.map f } := by
  refine ⟨rfl, List.prefix_append _ _, fun h => { h with unattached := ?_ }⟩
  intro hn
  obtain ⟨h1, h2, h3⟩ := h.unattached hn
  exact ⟨h1, h2, by simp [h3]⟩

/-! ### States that follow -/

/-- The stream record `x'` is `x`, or `x` with its parked ACQUIRE ended. -/
def Stream.Ends (x x' : Stream) : Prop := x' = x ∨ x' = { x with parked := none }

theorem Stream.Ends.trans {a b c : Stream} (h : a.Ends b) (g : b.Ends c) : a.Ends c := by
  rcases h with rfl | rfl <;> rcases g with rfl | rfl
  · exact Or.inl rfl
  · exact Or.inr rfl
  · exact Or.inr rfl
  · exact Or.inr rfl

/-- Every parked ACQUIRE has a producer (R48). -/
def State.ParkedOwned (s : State) : Prop := ∀ st, (s.stream st).parked.isSome = true → (s.stream st).producer.isSome = true

/-- What `t` keeps of `s` when notices and responses are queued, buffers granted, released and judged, and parked ACQUIREs end: all
but buffer records, free lists, wait queues, registered counts, queues and replay records, and parked acquire fields; and for every
port the responses queued and the requests parked stay the same number. -/
structure State.Follows (s t : State) : Prop where
  ports : ∀ p, (s.port p).Carries (t.port p)
  pools : ∀ k, t.pool k = { s.pool k with free := (t.pool k).free, wait := (t.pool k).wait, registered := (t.pool k).registered }
  streams : ∀ st, (s.stream st).Ends (t.stream st)
  counted : s.ParkedOwned → ∀ p,
    (t.port p).responses.length + t.parkedCount p = (s.port p).responses.length + s.parkedCount p
  timers : t.timers = s.timers
  addressed : t.addressed = s.addressed
  phase : t.phase = s.phase
  resetN : t.resetN = s.resetN
  supplies : t.supplies = s.supplies
  pending : t.pending = s.pending

theorem Stream.Ends.refl (x : Stream) : x.Ends x := Or.inl rfl

section Ends
variable {x x' : Stream} (h : x.Ends x')
include h

theorem Stream.Ends.same : x' = { x with parked := x'.parked } := by rcases h with rfl | rfl <;> rfl
theorem Stream.Ends.parked : x'.parked = x.parked ∨ x'.parked = none := by rcases h with rfl | rfl <;> simp
theorem Stream.Ends.state : x'.state = x.state := by rcases h with rfl | rfl <;> rfl
theorem Stream.Ends.owner : x'.owner = x.owner := by rcases h with rfl | rfl <;> rfl
theorem Stream.Ends.producer : x'.producer = x.producer := by rcases h with rfl | rfl <;> rfl
theorem Stream.Ends.signaller : x'.signaller = x.signaller := by rcases h with rfl | rfl <;> rfl
theorem Stream.Ends.pool : x'.pool = x.pool := by rcases h with rfl | rfl <;> rfl
theorem Stream.Ends.policy : x'.policy = x.policy := by rcases h with rfl | rfl <;> rfl
theorem Stream.Ends.depth : x'.depth = x.depth := by rcases h with rfl | rfl <;> rfl
theorem Stream.Ends.quota : x'.quota = x.quota := by rcases h with rfl | rfl <;> rfl
theorem Stream.Ends.reserve : x'.reserve = x.reserve := by rcases h with rfl | rfl <;> rfl
theorem Stream.Ends.list : x'.list = x.list := by rcases h with rfl | rfl <;> rfl
theorem Stream.Ends.slots : x'.slots = x.slots := by rcases h with rfl | rfl <;> rfl
theorem Stream.Ends.slot (c : SlotId) : x'.slot c = x.slot c := by rcases h with rfl | rfl <;> rfl
theorem Stream.Ends.occupied : x'.occupied = x.occupied := by rcases h with rfl | rfl <;> rfl
theorem Stream.Ends.members : x'.members = x.members := by rcases h with rfl | rfl <;> rfl

/-- A sound stream stays sound when its parked ACQUIRE ends. -/
theorem Stream.Ends.sound (hx : x.Sound) : x'.Sound := by
  rcases h with rfl | rfl
  · exact hx
  · refine { hx with closed := fun hc => ?_ }
    have := hx.closed hc
    rw [this]; rfl

end Ends

theorem State.Follows.refl (s : State) : s.Follows s :=
  ⟨fun _ => .refl _, fun _ => rfl, fun _ => .refl _, fun _ _ => rfl, rfl, rfl, rfl, rfl, rfl, rfl⟩

theorem State.Follows.parkedOwned {s t : State} (h : s.Follows t) (ho : s.ParkedOwned) : t.ParkedOwned := by
  intro st hp
  have he := h.streams st
  rw [he.producer]
  rcases he.parked with h1 | h1
  · exact ho st (h1 ▸ hp)
  · simp [h1] at hp

theorem State.Follows.trans {s t u : State} (h : s.Follows t) (g : t.Follows u) : s.Follows u where
  ports p := (h.ports p).trans (g.ports p)
  pools k := by rw [g.pools k, h.pools k]
  streams st := (h.streams st).trans (g.streams st)
  counted ho p := (g.counted (h.parkedOwned ho) p).trans (h.counted ho p)
  timers := g.timers.trans h.timers
  addressed := g.addressed.trans h.addressed
  phase := g.phase.trans h.phase
  resetN := g.resetN.trans h.resetN
  supplies := g.supplies.trans h.supplies
  pending := g.pending.trans h.pending

section Follows
variable {s t : State} (h : s.Follows t)
include h

theorem State.Follows.portsSound (hp : PortsSound s) : PortsSound t := fun p => (h.ports p).sound (hp p)
theorem State.Follows.streamsSound (hs : StreamsSound s) : StreamsSound t := fun st => (h.streams st).sound (hs st)
theorem State.Follows.timer (i : TimerId) : t.timer i = s.timer i := by unfold State.timer; rw [h.timers]
theorem State.Follows.poolState (k : PoolId) : (t.pool k).state = (s.pool k).state := by rw [h.pools k]
theorem State.Follows.poolOwner (k : PoolId) : (t.pool k).owner = (s.pool k).owner := by rw [h.pools k]

/-- The window invariant goes along. -/
theorem State.Follows.windowsSound (hw : WindowsSound s) : WindowsSound t where
  ports := h.portsSound hw.ports
  window p hl := by
    rw [(h.ports p).state] at hl
    rw [(h.ports p).window, h.counted (fun st hp => by obtain ⟨q, hq, _⟩ := hw.parked st hp; simp [hq]) p, hw.window p hl]
  small p := by rw [(h.ports p).window]; exact hw.small p
  lapsing p hl := by
    have ho : s.ParkedOwned := fun st hp => by obtain ⟨q, hq, _⟩ := hw.parked st hp; simp [hq]
    rw [(h.ports p).state] at hl
    obtain ⟨h1, h2⟩ := hw.lapsing p hl
    have hc := h.counted ho p
    have hz : s.parkedCount p = 0 := by
      rw [State.parkedCount, List.countP_eq_zero]
      intro st _ hp
      simp only [State.isParked, Bool.and_eq_true, beq_iff_eq] at hp
      obtain ⟨q, hq, ha⟩ := hw.parked st hp.2
      rw [hp.1] at hq
      obtain rfl : p = q := by simpa using hq
      simp [hl] at ha
    rw [h1, hz] at hc
    refine ⟨List.eq_nil_of_length_eq_zero ?_, by rw [(h.ports p).window]; exact h2⟩
    simp only [List.length_nil, Nat.zero_add] at hc
    omega
  parked st hp := by
    have he := h.streams st
    rcases he.parked with h1 | h1
    · obtain ⟨q, hq, ha⟩ := hw.parked st (h1 ▸ hp)
      exact ⟨q, by rw [he.producer, hq], by rw [(h.ports q).state, ha]⟩
    · simp [h1] at hp

end Follows

/-! ### Buffer and pool records alone -/

theorem follows_modBuffer (s : State) (b : BufferId) (f : Buffer → Buffer) : s.Follows (s.modBuffer b f) :=
  ⟨fun _ => .refl _, fun _ => rfl, fun _ => .refl _, fun _ _ => rfl, rfl, rfl, rfl, rfl, rfl, rfl⟩

/-- A pool record whose state and owner stay. -/
theorem follows_modPool (s : State) (k : PoolId) {f : Pool → Pool}
    (hf : ∀ q, (f q).state = q.state ∧ (f q).owner = q.owner) : s.Follows (s.modPool k f) := by
  refine ⟨fun _ => .refl _, fun j => ?_, fun _ => .refl _, fun _ _ => rfl, rfl, rfl, rfl, rfl, rfl, rfl⟩
  rw [modPool_pool]
  split
  · rename_i hj; subst hj
    obtain ⟨h1, h2⟩ := hf (s.pool j)
    generalize f (s.pool j) = q at h1 h2
    cases q
    simp_all
  · rfl

theorem follows_modBoth (s : State) (b : BufferId) (f : Buffer → Buffer) (k : PoolId) {g : Pool → Pool}
    (hg : ∀ q, (g q).state = q.state ∧ (g q).owner = q.owner) : s.Follows ((s.modBuffer b f).modPool k g) :=
  (follows_modBuffer s b f).trans (follows_modPool _ k hg)

/-! ### Notices and responses -/

theorem follows_queueNotice (p : Port) (n : Notice) (s : State) : s.Follows (queueNotice p n s) := by
  refine ⟨fun q => ?_, fun _ => rfl, fun _ => .refl _, fun _ q => ?_, rfl, rfl, rfl, rfl, rfl, rfl⟩
  · rw [queueNotice, modPort_port]
    split
    · rename_i h; subst h; exact (s.port q).carries_receive n
    · exact .refl _
  · have : (queueNotice p n s).parkedCount q = s.parkedCount q := rfl
    rw [this, queueNotice, modPort_port]
    split
    · rename_i h; subst h; simp
    · rfl

theorem follows_queueNoticeTo (p : Option Port) (n : Notice) (s : State) : s.Follows (queueNoticeTo p n s) := by
  cases p with
  | none => exact .refl _
  | some q => exact follows_queueNotice q n s

theorem follows_queueNotices (ps : List Port) (n : Notice) (s : State) : s.Follows (queueNotices ps n s) := by
  induction ps generalizing s with
  | nil => exact .refl _
  | cons p ps ih => exact (follows_queueNotice p n s).trans (ih _)

@[simp] theorem queueNotice_buffer (p : Port) (n : Notice) (s : State) (b : BufferId) :
    (queueNotice p n s).buffer b = s.buffer b := rfl
@[simp] theorem queueNotice_pool (p : Port) (n : Notice) (s : State) (k : PoolId) :
    (queueNotice p n s).pool k = s.pool k := rfl
@[simp] theorem queueNotice_stream (p : Port) (n : Notice) (s : State) (st : StreamId) :
    (queueNotice p n s).stream st = s.stream st := rfl
@[simp] theorem queueNoticeTo_buffer (p : Option Port) (n : Notice) (s : State) (b : BufferId) :
    (queueNoticeTo p n s).buffer b = s.buffer b := by cases p <;> rfl
@[simp] theorem queueNoticeTo_pool (p : Option Port) (n : Notice) (s : State) (k : PoolId) :
    (queueNoticeTo p n s).pool k = s.pool k := by cases p <;> rfl
@[simp] theorem queueNoticeTo_stream (p : Option Port) (n : Notice) (s : State) (st : StreamId) :
    (queueNoticeTo p n s).stream st = s.stream st := by cases p <;> rfl
@[simp] theorem queueNotices_buffer (ps : List Port) (n : Notice) (s : State) (b : BufferId) :
    (queueNotices ps n s).buffer b = s.buffer b := by
  induction ps generalizing s with
  | nil => rfl
  | cons p ps ih => exact (ih _).trans rfl
@[simp] theorem queueNotices_pool (ps : List Port) (n : Notice) (s : State) (k : PoolId) :
    (queueNotices ps n s).pool k = s.pool k := by
  induction ps generalizing s with
  | nil => rfl
  | cons p ps ih => exact (ih _).trans rfl
@[simp] theorem queueNotices_stream (ps : List Port) (n : Notice) (s : State) (st : StreamId) :
    (queueNotices ps n s).stream st = s.stream st := by
  induction ps generalizing s with
  | nil => rfl
  | cons p ps ih => exact (ih _).trans rfl

/-- A notice queued to a list of ports reaches each of them once and no other port. -/
theorem queueNotices_port {ps : List Port} (hp : ps.Nodup) (n : Notice) (s : State) (q : Port) :
    (queueNotices ps n s).port q = if q ∈ ps then (s.port q).receive n else s.port q := by
  induction ps generalizing s with
  | nil => rfl
  | cons p ps ih =>
    obtain ⟨hn, hp⟩ := List.nodup_cons.mp hp
    have h : queueNotices (p :: ps) n s = queueNotices ps n (queueNotice p n s) := rfl
    rw [h, ih hp]
    by_cases hq : q = p
    · subst hq; simp [hn, queueNotice]
    · by_cases hm : q ∈ ps <;> simp [hq, hm, queueNotice]

/-- The members of a stream, each port once (R24). -/
theorem mem_members {x : Stream} {p : Port} :
    p ∈ x.members ↔ x.producer = some p ∨ ∃ c, (x.slot c).occupied = true ∧ (x.slot c).port = some p := by
  simp [Stream.members, isMember_eq_true]

theorem members_nodup (x : Stream) : x.members.Nodup := by
  unfold Stream.members
  rw [allPorts_eq]
  exact (List.nodup_finRange 4).filter _

/-! ### The end of a parked ACQUIRE -/

@[simp] theorem endParked_buffer (st : StreamId) (s : State) (b : BufferId) :
    (endParked st s).buffer b = s.buffer b := rfl
@[simp] theorem endParked_port (st : StreamId) (s : State) (p : Port) : (endParked st s).port p = s.port p := rfl
theorem endParked_stream (st : StreamId) (s : State) (u : StreamId) :
    (endParked st s).stream u = if u = st then { s.stream st with parked := none } else s.stream u := by
  simp [endParked, modStream_stream]
theorem endParked_pool (st : StreamId) (s : State) (k : PoolId) :
    (endParked st s).pool k =
      if k = (s.stream st).pool then { s.pool k with wait := (s.pool k).wait.erase st } else s.pool k := by
  simp only [endParked, modStream_pool, modPool_pool]
  split
  · rename_i h; subst h; rfl
  · rfl

/-- One stream's parked field gone: the count falls by one for its producer's port, if it had one. -/
theorem countP_update {l : List StreamId} (hl : l.Nodup) {st : StreamId} (hm : st ∈ l) {q q' : StreamId → Bool}
    (hq : ∀ u, u ≠ st → q' u = q u) (hst : q' st = false) :
    l.countP q' + (if q st = true then 1 else 0) = l.countP q := by
  induction l with
  | nil => simp at hm
  | cons a l ih =>
    simp only [List.nodup_cons] at hl
    by_cases ha : a = st
    · subst ha
      have : l.countP q' = l.countP q := List.countP_congr fun u hu => by
        have : u ≠ a := fun h => hl.1 (h ▸ hu)
        simp [hq u this]
      simp [List.countP_cons, hst, this]
    · have hm' : st ∈ l := by
        rcases List.mem_cons.mp hm with h | h
        · exact absurd h.symm ha
        · exact h
      have := ih hl.2 hm'
      simp only [List.countP_cons, hq a ha]
      omega

theorem allStreams_nodup : allStreams.Nodup := by rw [allStreams_eq]; exact List.nodup_finRange 16

theorem endParked_parkedCount (st : StreamId) (s : State) (p : Port) :
    (endParked st s).parkedCount p + (if s.isParked p st = true then 1 else 0) = s.parkedCount p := by
  refine countP_update allStreams_nodup (mem_allStreams st) (fun u hu => ?_) ?_
  · simp [State.isParked, endParked_stream, hu]
  · simp [State.isParked, endParked_stream]

@[simp] theorem completeParked_buffer (st : StreamId) (x : Reply) (s : State) (b : BufferId) :
    (completeParked st x s).buffer b = s.buffer b := by
  unfold completeParked; split <;> rfl
theorem completeParked_stream (st : StreamId) (x : Reply) (s : State) (u : StreamId) :
    (completeParked st x s).stream u = if u = st then { s.stream st with parked := none } else s.stream u := by
  rw [← endParked_stream]
  unfold completeParked; split <;> rfl
theorem completeParked_pool (st : StreamId) (x : Reply) (s : State) (k : PoolId) :
    (completeParked st x s).pool k =
      if k = (s.stream st).pool then { s.pool k with wait := (s.pool k).wait.erase st } else s.pool k := by
  rw [← endParked_pool]
  unfold completeParked; split <;> rfl

/-- The completion of a parked ACQUIRE on the producer's port record. -/
theorem completeParked_port (st : StreamId) (x : Reply) (s : State) {k : Parked} {p : Port}
    (hk : (s.stream st).parked = some k) (hp : (s.stream st).producer = some p) (q : Port) :
    (completeParked st x s).port q = if q = p then
      { s.port p with
        responses := (s.port p).responses ++ [⟨k.tag, acquireCode, x.result, x.data⟩]
        replay := (s.port p).replay.map fun m => if m.parkedOn = some st then
            { m with copy := some ⟨k.tag, acquireCode, x.result, x.data⟩, parkedOn := none } else m }
      else s.port q := by
  unfold completeParked
  rw [hk, hp]
  simp only [storeParkedCopy, queueResponse, modPort_modPort, modPort_port, endParked_port]

theorem follows_completeParked (st : StreamId) (x : Reply) (s : State) : s.Follows (completeParked st x s) := by
  have hstream : ∀ u, (s.stream u).Ends ((completeParked st x s).stream u) := fun u => by
    rw [completeParked_stream]
    split
    · rename_i h; subst h; exact Or.inr rfl
    · exact .refl _
  have hpool : ∀ k, (completeParked st x s).pool k =
      { s.pool k with free := ((completeParked st x s).pool k).free, wait := ((completeParked st x s).pool k).wait,
                      registered := ((completeParked st x s).pool k).registered } := fun k => by
    rw [completeParked_pool]; split <;> rfl
  have hcount : ∀ p, (completeParked st x s).parkedCount p = (endParked st s).parkedCount p := fun p => by
    unfold State.parkedCount
    refine List.countP_congr fun u _ => ?_
    simp [State.isParked, completeParked_stream, endParked_stream]
  by_cases hk : ∃ k p, (s.stream st).parked = some k ∧ (s.stream st).producer = some p
  · obtain ⟨k, p, hk, hp⟩ := hk
    have hport := completeParked_port st x s hk hp
    refine ⟨fun q => ?_, hpool, hstream, fun _ q => ?_, ?_, ?_, ?_, ?_, ?_, ?_⟩
    · rw [hport]
      split
      · rename_i h; subst h; exact (s.port q).carries_response _ _
      · exact .refl _
    · rw [hport, hcount, ← endParked_parkedCount st s q]
      by_cases hq : q = p
      · subst hq
        simp [State.isParked, hk, hp]; omega
      · have : s.isParked q st = false := by simp [State.isParked, hp, Ne.symm hq]
        simp [hq, this]
    all_goals (unfold completeParked; rw [hk, hp]; rfl)
  · have he : completeParked st x s = endParked st s := by
      unfold completeParked
      cases h1 : (s.stream st).parked with
      | none => rfl
      | some k =>
        cases h2 : (s.stream st).producer with
        | none => rfl
        | some p => exact absurd ⟨k, p, h1, h2⟩ hk
    refine ⟨fun q => by rw [he]; exact .refl _, hpool, hstream, fun ho q => ?_, ?_, ?_, ?_, ?_, ?_, ?_⟩
    · rw [he, ← endParked_parkedCount st s q]
      have : s.isParked q st = false := by
        by_contra hn
        simp only [State.isParked, Bool.not_eq_false, Bool.and_eq_true, beq_iff_eq, Option.isSome_iff_exists] at hn
        obtain ⟨h1, k, h2⟩ := hn
        exact hk ⟨k, q, h2, h1⟩
      simp [this]
    all_goals (rw [he]; rfl)

theorem follows_cancelParked (st : StreamId) (s : State) : s.Follows (cancelParked st s) := by
  unfold cancelParked
  split
  · exact follows_completeParked st _ s
  · exact .refl _

/-- No ACQUIRE of the stream is parked after a cancellation. -/
theorem cancelParked_stream (st : StreamId) (s : State) (u : StreamId) :
    (cancelParked st s).stream u = if u = st then { s.stream st with parked := none } else s.stream u := by
  unfold cancelParked
  split
  · exact completeParked_stream st _ s u
  · rename_i h
    have hn : (s.stream st).parked = none := by simpa using h
    split
    · rename_i hu; subst hu; rw [← hn]
    · rfl

/-! ### Grants and the arbiter -/

theorem follows_grant (k : PoolId) (st : StreamId) (b : BufferId) (s : State) : s.Follows (grant k st b s) :=
  (follows_modPool s k (f := fun q => { q with free := q.free.erase b }) fun _ => ⟨rfl, rfl⟩).trans
    (follows_modBuffer _ b _)

theorem follows_arbiterGrant (k : PoolId) (st : StreamId) (b : BufferId) (s : State) :
    s.Follows (arbiterGrant k st b s) :=
  (follows_grant k st b s).trans (follows_completeParked st _ _)

theorem follows_arbiterLoop (k : PoolId) (n : Nat) (s : State) : s.Follows (arbiterLoop k n s) := by
  induction n generalizing s with
  | zero => exact .refl _
  | succ n ih =>
    unfold arbiterLoop
    split
    · exact (follows_arbiterGrant k _ _ s).trans (ih _)
    · exact .refl _

/-- The arbiter only grants, one grant after the other: what each grant of a queued stream keeps, its run keeps. -/
theorem runArbiter_induction {k : PoolId} {motive : State → Prop} {s : State} (start : motive s)
    (grants : ∀ t b rest st, motive t → (t.pool k).free = b :: rest → chooseWaiter (t.pool k).wait t = some st →
      motive (arbiterGrant k st b t)) : motive (runArbiter k s) := by
  unfold runArbiter
  generalize (s.pool k).wait.length = n
  induction n generalizing s with
  | zero => exact start
  | succ n ih =>
    unfold arbiterLoop
    split
    · rename_i b rest st hf hw
      exact ih (grants s b rest st start hf hw)
    · exact start

/-- A stream that the arbiter chooses stands in the queue and is below its quota (R52). -/
theorem chooseWaiter_eligible {queue : List StreamId} {s : State} {st : StreamId}
    (h : chooseWaiter queue s = some st) : st ∈ queue ∧ s.outstanding st < (s.stream st).quota := by
  unfold chooseWaiter at h
  split at h
  · rename_i u hu
    obtain rfl : u = st := by simpa using h
    have := List.find?_some hu
    simp only [Bool.and_eq_true, belowQuota, decide_eq_true_eq] at this
    exact ⟨List.mem_of_find?_eq_some hu, this.2⟩
  · have := List.find?_some h
    simp only [belowQuota, decide_eq_true_eq] at this
    exact ⟨List.mem_of_find?_eq_some h, this⟩

theorem follows_runArbiter (k : PoolId) (s : State) : s.Follows (runArbiter k s) := follows_arbiterLoop k _ s

/-! ### Release, holds, judgement of unlisted buffers -/

theorem follows_noticeRecycled (b : BufferId) (r : Buffer) (s : State) : s.Follows (noticeRecycled b r s) := by
  unfold noticeRecycled
  split
  · exact follows_queueNoticeTo _ _ s
  · exact .refl _

theorem follows_release (b : BufferId) (s : State) : s.Follows (release b s) := by
  unfold release
  dsimp only
  split
  · split
    · refine State.Follows.trans ?_ (follows_noticeRecycled b _ _)
      exact follows_modBoth s b _ _ fun _ => ⟨rfl, rfl⟩
    · refine State.Follows.trans (State.Follows.trans ?_ (follows_noticeRecycled b _ _)) (follows_runArbiter _ _)
      exact follows_modBoth s b _ _ fun _ => ⟨rfl, rfl⟩
  · exact .refl _

theorem follows_releaseAll (bs : List BufferId) (s : State) : s.Follows (releaseAll bs s) := by
  induction bs generalizing s with
  | nil => exact .refl _
  | cons b bs ih => exact (follows_release b s).trans (ih _)

theorem follows_addHold (b : BufferId) (s : State) : s.Follows (addHold b s) := follows_modBuffer s b _

theorem follows_dropHold (b : BufferId) (s : State) : s.Follows (dropHold b s) := by
  unfold dropHold
  dsimp only
  split
  · exact (follows_modBuffer s b _).trans (follows_release b _)
  · exact follows_modBuffer s b _

theorem follows_unlist (b : BufferId) (s : State) : s.Follows (unlist b s) := by
  unfold unlist
  split
  · split
    · exact follows_release b s
    · exact follows_modBuffer s b _
  · exact .refl _

theorem follows_unlistAll (bs : List BufferId) (s : State) : s.Follows (unlistAll bs s) := by
  induction bs generalizing s with
  | nil => exact .refl _
  | cons b bs ih => exact (follows_unlist b s).trans (ih _)

theorem follows_chosen (s : State) : s.Follows (chosen s) :=
  ⟨fun _ => .refl _, fun _ => rfl, fun _ => .refl _, fun _ _ => rfl, rfl, rfl, rfl, rfl, rfl, rfl⟩

theorem follows_releaseFillings (st : StreamId) (s : State) : s.Follows (releaseFillings st s) :=
  (follows_chosen s).trans (follows_releaseAll _ _)

theorem insertByRank_perm (rank : BufferId → Nat) (b : BufferId) : ∀ l, (insertByRank rank b l).Perm (b :: l)
  | [] => .refl _
  | c :: l => by
    unfold insertByRank
    split
    · exact .refl _
    · exact ((insertByRank_perm rank b l).cons c).trans (.swap _ _ _)

theorem orderByRank_perm (rank : BufferId → Nat) : ∀ l, (orderByRank rank l).Perm l
  | [] => .refl _
  | b :: l => (insertByRank_perm rank b _).trans ((orderByRank_perm rank l).cons b)

/-- An order that nothing constrains is an order of the same buffers. -/
theorem someOrder_perm (s : State) (bs : List BufferId) : (someOrder s bs).Perm bs := orderByRank_perm _ bs

theorem mem_fillings {s : State} {st : StreamId} {b : BufferId} :
    b ∈ s.fillings st ↔ (s.buffer b).state = .filling ∧ (s.buffer b).stream = some st := by
  simp only [State.fillings, List.mem_filter, mem_allBuffers, true_and, Bool.and_eq_true, beq_iff_eq]

theorem mem_unsignalled {x : Stream} {b : BufferId} :
    b ∈ x.unsignalled ↔ ∃ e ∈ x.list, e.signalled = false ∧ e.buffer = b := by
  simp [Stream.unsignalled, and_assoc]

/-! ### Entries that leave a list -/

/-- Entries leave the list of one stream; everything else follows. -/
theorem follows_removeEntries (st : StreamId) (bs : List BufferId) (s : State) :
    (s.modStream st fun x => { x with list := without x.list bs }).Follows (removeEntries st bs s) :=
  follows_unlistAll bs _

theorem removeEntries_list (st : StreamId) (bs : List BufferId) (s : State) :
    ((removeEntries st bs s).stream st).list = without (s.stream st).list bs := by
  rw [((follows_removeEntries st bs s).streams st).list]
  simp

/-- Settling removes entries of one stream; everything else follows. -/
theorem follows_settle (st : StreamId) (s : State) :
    (s.modStream st fun x => { x with list := without x.list (s.stream st).settled }).Follows (settle st s) :=
  follows_removeEntries st _ s

theorem follows_removeUnsignalled (st : StreamId) (s : State) :
    (s.modStream st fun x => { x with list := without x.list (someOrder s (s.stream st).unsignalled) }).Follows
      (removeUnsignalled st s) :=
  (follows_chosen _).trans (follows_removeEntries st _ (chosen s))

/-! ### Changes that go along -/

/-- A change of one stream record that leaves its producer and its parked ACQUIRE alone, and does not look at the latter, goes along. -/
theorem State.Follows.modStream {s t : State} (h : s.Follows t) (st : StreamId) {f : Stream → Stream}
    (hf : ∀ x, (f x).producer = x.producer ∧ (f x).parked = x.parked)
    (hn : ∀ x, f { x with parked := none } = { f x with parked := none }) :
    (s.modStream st f).Follows (t.modStream st f) := by
  have hc : ∀ (u : State) (p : Port), (u.modStream st f).parkedCount p = u.parkedCount p := fun u p => by
    unfold State.parkedCount
    refine List.countP_congr fun v _ => ?_
    unfold State.isParked
    rw [modStream_stream]
    split
    · rename_i hv; subst hv; rw [(hf _).1, (hf _).2]
    · rfl
  refine ⟨h.ports, h.pools, fun u => ?_, fun ho p => ?_, h.timers, h.addressed, h.phase, h.resetN, h.supplies, h.pending⟩
  · rw [modStream_stream, modStream_stream]
    split
    · rcases h.streams st with he | he
      · rw [he]; exact .refl _
      · rw [he]; exact Or.inr (hn _)
    · exact h.streams u
  · rw [hc, hc]
    refine h.counted (fun u hu => ?_) p
    have := ho u
    rw [modStream_stream] at this
    by_cases hv : u = st
    · subst hv; simp only [if_true, (hf _).1, (hf _).2] at this; exact this hu
    · simp only [hv, if_false] at this; exact this hu

/-- Boundaries discarded in both states. -/
theorem State.Follows.discard {s t : State} (h : s.Follows t) (f : StreamId × SlotId → Bool) :
    State.Follows { s with addressed := s.addressed.filter f } { t with addressed := t.addressed.filter f } :=
  ⟨h.ports, h.pools, h.streams, h.counted, h.timers, by rw [h.addressed], h.phase, h.resetN, h.supplies, h.pending⟩

/-! ### A slot that is cleared -/

/-- The stream record after the clearing of slot `c`, but for its parked ACQUIRE. -/
def Stream.withoutSlot (x : Stream) (c : SlotId) : Stream :=
  { x with list := x.list.map fun e => { e with passed := e.passed.put c false }
           slots := x.slots.set c Slot.cleared }

theorem follows_dropOld (old : Option BufferId) (s : State) :
    s.Follows (match old with
      | some b => dropHold b s
      | none => s) := by
  cases old with
  | none => exact .refl _
  | some b => exact follows_dropHold b s

/-- Clearing a slot: the slot cleared and out of every passed set, the boundaries addressed to it discarded; everything else follows. -/
theorem follows_clearSlot (st : StreamId) (c : SlotId) (s : State) :
    State.Follows { s.modStream st fun x => x.withoutSlot c with addressed := s.addressed.filter fun a => a != (st, c) }
      (clearSlot st c s) := by
  have h1 := follows_dropOld ((s.stream st).slot c).current
    (s.modStream st fun x => { x with list := x.list.map fun e => { e with passed := e.passed.put c false } })
  have h2 := (h1.modStream st (f := fun x => x.modSlot c fun _ => Slot.cleared) (fun _ => ⟨rfl, rfl⟩)
    (fun _ => rfl)).discard fun a => a != (st, c)
  have h3 : (s.modStream st fun x => { x with list := x.list.map fun e => { e with passed := e.passed.put c false } }).modStream
      st (fun x => x.modSlot c fun _ => Slot.cleared) = s.modStream st fun x => x.withoutSlot c := by
    simp [State.modStream, State.stream, get_set_same, Stream.withoutSlot, Stream.modSlot]
  rw [h3] at h2
  exact h2

/-! ### The drain completion test -/

theorem drained_iff {s : State} {st : StreamId} :
    s.drained st = true ↔ (s.stream st).state = .draining ∧ (s.stream st).producer = none ∧
      (∀ c, ((s.stream st).slot c).occupied = false) ∧ ∀ b, (s.buffer b).stream ≠ some st := by
  have hm : (s.stream st).hasMember = false ↔
      (s.stream st).producer = none ∧ ∀ c, ((s.stream st).slot c).occupied = false := by
    rw [← Bool.not_eq_true, hasMember_eq_true]
    push Not
    simp
  simp only [State.drained, Bool.and_eq_true, beq_iff_eq, Bool.not_eq_true', hm, outstanding_eq_zero]
  tauto

/-- The drain completion test does nothing, or clears the record of a drained stream after its notice. -/
theorem drainTest_cases (st : StreamId) (s : State) :
    drainTest st s = s ∨ (s.drained st = true ∧ ∃ n : Notice,
      drainTest st s = (queueNoticeTo (s.stream st).owner n s).modStream st fun _ => Stream.cleared) := by
  unfold drainTest
  split
  · rename_i h; exact Or.inr ⟨h, _, rfl⟩
  · exact Or.inl rfl

/-! ### The first stage of a sweep -/

/-- The parked ACQUIREs of a list of streams discarded. -/
theorem discardParked_foldl (p : Port) (l : List StreamId) (s : State) (hl : l.Nodup) :
    (l.foldl (discardParked p) s).stream = (fun u => if u ∈ l then
        { s.stream u with parked := if (s.stream u).producer = some p then none else (s.stream u).parked }
      else s.stream u) ∧
    (l.foldl (discardParked p) s).pool = (fun k => { s.pool k with wait := (s.pool k).wait.diff (l.filter fun st =>
        (s.stream st).producer == some p && (s.stream st).parked.isSome && (s.stream st).pool == k) }) ∧
    (l.foldl (discardParked p) s).port = s.port ∧ (l.foldl (discardParked p) s).buffer = s.buffer ∧
    (l.foldl (discardParked p) s).timer = s.timer ∧ (l.foldl (discardParked p) s).addressed = s.addressed ∧
    (l.foldl (discardParked p) s).phase = s.phase ∧ (l.foldl (discardParked p) s).resetN = s.resetN ∧
    (l.foldl (discardParked p) s).supplies = s.supplies ∧ (l.foldl (discardParked p) s).choices = s.choices ∧
    (l.foldl (discardParked p) s).pending = s.pending := by
  induction l generalizing s with
  | nil => simp
  | cons a l ih =>
    simp only [List.nodup_cons] at hl
    obtain ⟨h1, h2, h3, h4, h5, h6, h7, h8, h9, h10, h11⟩ := ih (discardParked p s a) hl.2
    have hst : ∀ u, (discardParked p s a).stream u = if u = a then
        { s.stream u with parked := if (s.stream u).producer = some p then none else (s.stream u).parked }
        else s.stream u := by
      intro u
      unfold discardParked
      by_cases hp : (s.stream a).producer = some p <;> by_cases hk : (s.stream a).parked.isSome = true
      · simp only [hp, hk, and_self, if_true, endParked_stream]
        split
        · rename_i hu; subst hu; simp [hp]
        · rfl
      · have hk' : (s.stream a).parked = none := by simpa using hk
        simp only [hk, and_false, Bool.false_eq_true, if_false]
        split
        · rename_i hu; subst hu; rw [if_pos hp, ← hk']
        · rfl
      · simp only [hp, false_and, if_false]
        split
        · rename_i hu; subst hu; simp [hp]
        · rfl
      · simp only [hp, false_and, if_false]
        split
        · rename_i hu; subst hu; simp [hp]
        · rfl
    have hrest : (discardParked p s a).port = s.port ∧ (discardParked p s a).buffer = s.buffer ∧
        (discardParked p s a).timer = s.timer ∧ (discardParked p s a).addressed = s.addressed ∧
        (discardParked p s a).phase = s.phase ∧ (discardParked p s a).resetN = s.resetN ∧
        (discardParked p s a).supplies = s.supplies ∧ (discardParked p s a).choices = s.choices ∧
        (discardParked p s a).pending = s.pending := by
      unfold discardParked
      split <;> exact ⟨rfl, rfl, rfl, rfl, rfl, rfl, rfl, rfl, rfl⟩
    have hpool : ∀ k, (discardParked p s a).pool k =
        { s.pool k with
          wait := (s.pool k).wait.diff (if (s.stream a).producer = some p ∧ (s.stream a).parked.isSome = true ∧
            (s.stream a).pool = k then [a] else []) } := by
      intro k
      unfold discardParked
      by_cases hp : (s.stream a).producer = some p ∧ (s.stream a).parked.isSome = true
      · rw [if_pos hp, endParked_pool]
        by_cases hk : k = (s.stream a).pool
        · subst hk; simp [hp]
        · have : ¬(s.stream a).pool = k := fun h => hk h.symm
          simp [hk, this]
      · rw [if_neg hp]
        have : ¬((s.stream a).producer = some p ∧ (s.stream a).parked.isSome = true ∧ (s.stream a).pool = k) :=
          fun h => hp ⟨h.1, h.2.1⟩
        simp [this]
    simp only [List.foldl_cons]
    refine ⟨?_, ?_, h3.trans hrest.1, h4.trans hrest.2.1, h5.trans hrest.2.2.1, h6.trans hrest.2.2.2.1,
      h7.trans hrest.2.2.2.2.1, h8.trans hrest.2.2.2.2.2.1, h9.trans hrest.2.2.2.2.2.2.1,
      h10.trans hrest.2.2.2.2.2.2.2.1, h11.trans hrest.2.2.2.2.2.2.2.2⟩
    · rw [h1]
      funext u
      by_cases hu : u = a
      · subst hu; simp [hst, hl.1]
      · simp [hst, hu]
    · rw [h2]
      funext k
      have hfil : (l.filter fun st => ((discardParked p s a).stream st).producer == some p &&
            ((discardParked p s a).stream st).parked.isSome && ((discardParked p s a).stream st).pool == k) =
          l.filter fun st => (s.stream st).producer == some p && (s.stream st).parked.isSome &&
            (s.stream st).pool == k := by
        refine List.filter_congr fun u hu => ?_
        have hua : u ≠ a := fun h => hl.1 (h ▸ hu)
        simp [hst, hua]
      rw [hfil, hpool k]
      by_cases hc : (s.stream a).producer = some p ∧ (s.stream a).parked.isSome = true ∧ (s.stream a).pool = k
      · rw [List.filter_cons_of_pos (by simp [hc])]
        simp [hc, List.diff_cons]
      · rw [List.filter_cons_of_neg (by simp only [Bool.and_eq_true, beq_iff_eq]; tauto)]
        simp [hc]

/-- The first stage of a sweep (R145): the port's own record, its parked ACQUIREs, and nothing else. -/
theorem firstStage_eq (p : Port) (detachTag : Option Byte) (s : State) :
    firstStage p detachTag s = (s.withoutParked p).modPort p fun r =>
      { r with state := .lapsing, leaseRemaining := none, responses := [], window := 0, replay := none, notices := [],
               lost := 0, sweep := some { next := .stream 0, detachTag := detachTag } } := by
  unfold firstStage
  obtain ⟨h1, h2, h3, h4, h5, h6, h7, h8, h9, h10, h11⟩ := discardParked_foldl p allStreams (s.modPort p fun r =>
      { r with state := .lapsing, leaseRemaining := none, responses := [], window := 0, replay := none, notices := [],
               lost := 0, sweep := some { next := .stream 0, detachTag := detachTag } }) allStreams_nodup
  unfold State.withoutParked
  apply state_ext
  · intro b; rw [h4]; simp
  · intro k; rw [h2]; simp
  · intro u; rw [h1]; simp only [mem_allStreams, if_true]; by_cases h : (s.stream u).producer = some p <;> simp [h]
  · intro i; rw [h5]; simp
  · intro q; rw [h3]; simp [modPort_port]
  · simp [h6]
  · simp [h7]
  · simp [h8]
  · simp [h9]
  · simp [h10]
  · simp [h11]

/-! ### Time passing on an empty queue -/

@[simp] theorem passTime_timer (s : State) (i : TimerId) :
    (passTime s).timer i = { s.timer i with remaining := countDown (s.timer i).remaining } := by
  simp [passTime, State.timer, mapBank, Vector.get_eq_getElem]
@[simp] theorem passTime_stream (s : State) (st : StreamId) : (passTime s).stream st = (s.stream st).tick := by
  simp [passTime, State.stream, mapBank, Vector.get_eq_getElem]
@[simp] theorem passTime_port (s : State) (p : Port) :
    (passTime s).port p = { s.port p with leaseRemaining := countDown (s.port p).leaseRemaining } := by
  simp [passTime, State.port, mapBank, Vector.get_eq_getElem]
@[simp] theorem passTime_buffer (s : State) (b : BufferId) : (passTime s).buffer b = s.buffer b := rfl
@[simp] theorem passTime_pool (s : State) (k : PoolId) : (passTime s).pool k = s.pool k := rfl

end Sys2Proof.Machine
end

