-- ==== Sys2Proof/Tests/Slice0.lean ====
section
/-!
SUPPORT. Tests: the well-formedness checks refuse what they should, small steps of each row, and for each statement that has hypotheses
a state and operands that meet them, at the ends of their ranges.
-/

namespace Sys2Proof.Tests

open Sys2Proof.Machine

/- One theorem after another: each waiting thread would hold a stack of its own. -/
set_option Elab.async false

/-! ### States to test on -/

/-- Every port ATTACHED in its session 1, the lease at 1 s. -/
def desk : State :=
  { State.reset with
    ports := Vector.replicate 4
      { PortRecord.reset with state := .attached, session := 1, leaseInterval := 100, leaseRemaining := some 10000 } }

/-- The pool ACTIVE and owned by the port, with the given free list. -/
def withPool (k : PoolId) (p : Port) (free : List BufferId) (s : State) : State :=
  free.foldl (fun t b => t.modBuffer b fun r => { r with state := .free, pool := some k })
    (s.modPool k fun q => { q with state := .active, owner := some p, free := free, registered := free.length })

/-- The stream VACANT over pool 3, owned by P0, admitting every port, depth 2, quota 2. -/
def withStream (st : StreamId) (policy : Policy) (s : State) : State :=
  s.modStream st fun x =>
    { x with
      state := .vacant, owner := some 0, pool := 3, policy := policy, depth := 2, quota := 2, producerMask := 15, consumerMask := 15, nextSequence := 1 }

/-- P1 the producer of the stream. -/
def produced (st : StreamId) (s : State) : State := s.modStream st fun x => { x with state := .live, producer := some 1 }

/-- The buffer bound to the stream in the given state, of pool 3. -/
def bound (b : BufferId) (st : StreamId) (v : BufferState) (s : State) : State :=
  (s.modBuffer b fun r => { r with state := v, pool := some 3, stream := some st, generation := 7 }).modPool 3 fun q =>
    { q with registered := q.registered + 1 }

/-- An entry of the buffer, not passed and not shown. -/
def entry (b : BufferId) (sequence : Half) (signalled : Bool) (deadline : Option Nat) : Entry :=
  { buffer := b, sequence := sequence, signalled := signalled, deadline := deadline, passed := SlotSet.empty, shown := false }

/-- The stream's pending list. -/
def listing (st : StreamId) (list : List Entry) (s : State) : State := s.modStream st fun x => { x with list := list }

/-- P3 in slot C0 of the stream, on its line. -/
def consumed (st : StreamId) (s : State) : State :=
  s.modStream st fun x => x.modSlot 0 fun c => { c with occupied := true, port := some 3 }

/-- S15 LIVE over pool 3 with P1 producing and P3 in slot C0, and B63 FILLING. -/
def show₁ : State :=
  bound 63 15 .filling (consumed 15 (produced 15 (withStream 15 .latest (withPool 3 0 [] desk))))

/-- S15 as in `show₁`, EVERY, with B62 signalled and B63 unsignalled in its list, and B0 free. -/
def show₂ : State :=
  listing 15 [entry 62 1 true none, entry 63 2 false (some 0)]
    (bound 63 15 .published (bound 62 15 .published
      (consumed 15 (produced 15 (withStream 15 .every (withPool 3 0 [0] desk))))))

/-- The state a step answers. -/
def after : Host.Outcome State Fault Refusal → State
  | .next t => t
  | _ => State.reset

/-- The last response queued for the port, its result code and its data. -/
def reply (p : Port) (o : Host.Outcome State Fault Refusal) : Option (ResultCode × List Byte) :=
  ((after o).port p).responses.getLast?.map fun r => (r.result, r.data)

/-! ### Well-formedness -/

theorem test_payload_of_33_refused : (Instr.send 0 []).wellFormed = true ∧
    (Instr.attach 0 1 (List.replicate 32 0)).wellFormed = true ∧
    (Instr.attach 0 1 (List.replicate 33 0)).wellFormed = false := by decide +kernel

theorem test_known_code_refused : (Instr.badTransaction 0 0x00 []).wellFormed = true ∧
    (Instr.badTransaction 0 0x01 []).wellFormed = false ∧ (Instr.badTransaction 0 0x04 []).wellFormed = false ∧
    (Instr.badTransaction 0 0x05 []).wellFormed = true := by decide +kernel

theorem test_first_byte_names_transaction : [0x00, 0x01, 0x02, 0x03, 0x04, 0x05].map transactionOf =
    [none, some .status, some .send, some .fetchResponse, some .fetchNotice, none] := by decide +kernel

theorem test_no_word_spells_a_command : decodeTableWord 8 0x10 = none := by decide +kernel

/-! ### The rows, one step each -/

theorem test_worked_frame : frameBytes 0x05 0x12 [] = [0x00, 0x05, 0x12, 0x14] := by decide +kernel

theorem test_attach : reply 0 (exec (.attach 0 1 [100]) State.reset) =
    some (.ok, [0, 1, 100, 4, 64, 4, 16, 3, 4, 16]) := by decide +kernel

theorem test_detach : ((after (exec (.detach 3 9 []) desk)).port 3).sweep = some ⟨.stream 0, some 9⟩ := by decide +kernel

theorem test_renew : reply 0 (exec (.renew 0 1 []) desk) = some (.ok, [1, 100]) := by decide +kernel

theorem test_setNoticeMask : reply 0 (exec (.setNoticeMask 0 1 [0x03, 0xFE]) desk) = some (.ok, [0x03, 0xE6]) ∧
    reply 0 (exec (.setNoticeMask 0 1 [0x04, 0x00]) desk) = some (.range, []) := by decide +kernel

theorem test_createPool : reply 0 (exec (.createPool 0 1 []) (withPool 0 2 [] desk)) = some (.ok, [1]) := by decide +kernel

theorem test_dissolvePool : ((after (exec (.dissolvePool 2 1 [3]) (withPool 3 2 [5, 4] desk))).pool 3) = Pool.reset := by
  decide +kernel

theorem test_claimPool : reply 1 (exec (.claimPool 1 1 [3]) (withPool 3 2 [] desk)) = some (.denied, []) := by decide +kernel

theorem test_registerBuffer : reply 2 (exec (.registerBuffer 2 1 [3, 1, 2, 3, 4, 5, 6]) (withPool 3 2 [0] desk)) =
    some (.ok, [1, 0]) := by decide +kernel

theorem test_retireBuffer : reply 2 (exec (.retireBuffer 2 1 [5, 0]) (withPool 3 2 [5] desk)) = some (.ok, [0]) := by
  decide +kernel

theorem test_openStream : reply 0 (exec (.openStream 0 1 [3, 1, 8, 16, 16, 255, 15, 15, 0xFF]) (withPool 3 2 [] desk)) =
    some (.ok, [0]) := by decide +kernel

theorem test_configureStream : ((after (exec (.configureStream 0 1 [15, 0x84, 1, 3, 5]) show₁)).stream 15).consumerMask = 5 := by
  decide +kernel

theorem test_closeStream : reply 0 (exec (.closeStream 0 1 [15]) show₁) = some (.ok, [1]) := by decide +kernel

theorem test_claimStream : reply 2 (exec (.claimStream 2 1 [15]) show₁) = some (.denied, []) := by decide +kernel

theorem test_joinProducer : reply 1 (exec (.joinProducer 1 1 [15]) (withStream 15 .latest desk)) = some (.ok, [0, 1, 0]) := by
  decide +kernel

theorem test_leave : reply 3 (exec (.leave 3 1 [15]) show₁) = some (.ok, []) := by decide +kernel

theorem test_acquire : reply 1 (exec (.acquire 1 1 [15, 0]) show₂) = some (.quota, []) ∧
    reply 1 (exec (.acquire 1 1 [15, 0]) (produced 15 (withStream 15 .latest (withPool 3 0 [4] desk)))) =
      some (.ok, [4, 1, 0, 0, 0, 0, 0, 0]) := by decide +kernel

theorem test_abandon : reply 1 (exec (.abandon 1 1 [63, 7]) show₁) = some (.ok, []) := by decide +kernel

theorem test_publish : reply 1 (exec (.publish 1 1 [63, 7, 1]) show₁) = some (.ok, [0, 1, 1]) := by decide +kernel

theorem test_signal : reply 1 (exec (.signal 1 1 [63, 7]) show₂) = some (.ok, [0, 2]) := by decide +kernel

theorem test_joinConsumer : reply 2 (exec (.joinConsumer 2 1 [15, 4, 3]) show₂) = some (.ok, [1, 1]) := by decide +kernel

theorem test_retuneConsumer : (((after (exec (.retuneConsumer 3 1 [15, 4, 9]) show₂)).stream 15).slot 0).source = .timer 3 := by
  decide +kernel

theorem test_ackStall : reply 3 (exec (.ackStall 3 1 [15]) show₂) = some (.ok, [0, 0]) := by decide +kernel

theorem test_startTimer : ((after (exec (.startTimer 2 1 [3, 0xFF, 0xFF]) desk)).timer 3).remaining = some 65535 := by
  decide +kernel

theorem test_stopTimer : reply 2 (exec (.stopTimer 2 1 [3]) desk) = some (.denied, []) := by decide +kernel

theorem test_claimTimer : ((after (exec (.claimTimer 2 1 [3]) desk)).timer 3).owner = some 2 := by decide +kernel

theorem test_queryDevice : (reply 3 (exec (.queryDevice 3 1 []) desk)).map (fun r => (r.1, r.2.take 9, r.2.length)) =
    some (.ok, [3, 1, 1, 1, 1, 1, 1, 1, 1], 21) := by decide +kernel

theorem test_queryPort : reply 3 (exec (.queryPort 3 1 [0]) desk) =
    some (.ok, [1, 1, 100, 0x03, 0xE8, 0, 0, 0, 0, 0, 0, 0x03, 0xE6, 0, 0, 0, 0, 0, 0, 0, 0]) := by decide +kernel

theorem test_queryPool : (reply 3 (exec (.queryPool 3 1 [2]) desk)).map Prod.fst = some .noSuch := by decide +kernel

theorem test_queryStream : ((reply 3 (exec (.queryStream 3 1 [15, 1, 0]) show₂)).map fun r => (r.1, r.2.take 4, r.2.length)) =
    some (.ok, [2, 62, 0, 1], 17) ∧ (reply 3 (exec (.queryStream 3 1 [15, 4, 1]) show₂)).map Prod.fst = some .range := by
  decide +kernel

theorem test_queryBuffer : reply 3 (exec (.queryBuffer 3 1 [64]) show₂) = some (.range, []) := by decide +kernel

theorem test_send_runs_the_request :
    after (exec (.send 0 [0x00, 0x05, 0x12, 0x14]) desk) = after (exec (.renew 0 0x05 []) desk) := by decide +kernel

theorem test_status : ((after (exec (.status 3 1) desk)).port 3).shifted = some [0x80, 0xFF] := by decide +kernel

theorem test_fetchResponse : ((after (exec (.fetchResponse 0 3) State.reset)).port 0).shifted = some [0, 0, 0, 0xFF] := by
  decide +kernel

theorem test_fetchNotice : ((after (exec (.fetchNotice 0 25) State.reset)).port 0).shifted =
    some (0 :: (List.replicate 24 0 ++ [0xFF])) := by decide +kernel

theorem test_badTransaction : ((after (exec (.badTransaction 0 0xFF [0x01]) desk)).port 0).frameErrors = 1 := by decide +kernel

theorem test_qualifiedRisingEdge : (after (exec (.qualifiedRisingEdge 3) show₂)).addressed = [(15, 0)] := by decide +kernel

theorem test_qualifiedFall : ((after (exec (.qualifiedFall 3) show₂)).port 3).bnd = .low := by decide +kernel

theorem test_timerExpiry : (after (exec (.timerExpiry 3) (desk.modTimer 3 fun r =>
    { r with state := .running, period := 9, remaining := some 0 }))).timer 3 = { state := .running, owner := none, period := 9, remaining := some 9 } := by
  decide +kernel

theorem test_boundary : let t := after (exec (.boundary 15 0) { show₂ with addressed := [(15, 0)] })
    ((t.stream 15).slot 0).current = some 62 ∧ (t.buffer 62).state = .held ∧ (t.stream 15).list.map Entry.buffer = [63] ∧
      (t.port 3).notices = [.flip 15 0 62 7 0 0 1 0] := by decide +kernel

theorem test_acquireWaitExpiry : reply 1 (exec (.acquireWaitExpiry 15)
    ((produced 15 (withStream 15 .latest desk)).modStream 15 fun x => { x with parked := some ⟨6, 0⟩ })) = some (.timeout, []) := by decide +kernel

theorem test_signalExpiry : let t := after (exec (.signalExpiry 15 63) show₂)
    (t.port 1).notices = [.signalExpired 15 63 7 2] ∧ (t.buffer 63).state = .free ∧ (t.pool 3).free = [0, 63] := by
  decide +kernel

/-- P3's lease interval has elapsed, and its expiry is not taken yet. -/
def overdue : State := desk.modPort 3 fun r => { r with leaseRemaining := some 0 }

theorem test_leaseExpiry : ((after (exec (.leaseExpiry 3) overdue)).port 3).state = .lapsing := by decide +kernel

theorem test_renewal_before_leaseExpiry : let t := after (exec (.renew 3 1 []) overdue)
    (t.port 3).leaseRemaining = some 10000 ∧ after (exec (.leaseExpiry 3) t) = t := by decide +kernel

/-- P3 lapsing, at the given step of its sweep. -/
def lapsing (next : SweepStep) (tag : Option Byte) (s : State) : State :=
  s.modPort 3 fun r => { r with state := .lapsing, leaseRemaining := none, sweep := some ⟨next, tag⟩ }

theorem test_streamStep : let t := after (exec (.streamStep 3 15) (lapsing (.stream 15) none show₂))
    (t.port 3).sweep = some ⟨.thirdStage, none⟩ ∧ ((t.stream 15).slot 0) = Slot.cleared ∧
      (t.port 1).notices = [.memberLost 15 3 (.consumer 0) 1] := by decide +kernel

theorem test_sweepThirdStage : ((after (exec (.sweepThirdStage 3) (lapsing .thirdStage none (withPool 3 3 [] desk)))).pool 3).owner =
    none := by decide +kernel

theorem test_sweepFourthStage : reply 3 (exec (.sweepFourthStage 3) (lapsing .fourthStage (some 9) desk)) = some (.ok, [1]) := by
  decide +kernel

theorem test_deviceReset : (after (exec (.deviceReset .pin) show₂)).streams = State.reset.streams ∧
    (after (exec (.deviceReset .pin) show₂)).resetN = .low ∧ (after (exec (.deviceReset .pin) show₂)).supplies = true ∧
    (after (exec (.deviceReset (.powerUp .low)) show₂)).supplies = false ∧
    (after (exec (.deviceReset (.powerUp .low)) show₂)).resetN = .low := by decide +kernel

theorem test_resetRelease : (after (exec .resetRelease (after (exec (.deviceReset .pin) show₂)))).phase = .recovering := by
  decide +kernel

theorem test_recoveryEnd : (after (exec .recoveryEnd { show₂ with phase := .recovering })).phase = .serving := by decide +kernel

theorem test_fallOfSelect : ((after (exec (.fallOfSelect 0 true) desk)).port 0).select = .void := by decide +kernel

theorem test_powerUpEnd : (after (exec .powerUpEnd (after (exec (.deviceReset (.powerUp .high)) desk)))).phase = .recovering := by
  decide +kernel

/-! ### States and operands that meet the hypotheses of each statement -/

/-- A port whose next frame is taken: its window is at 3, and its replay record is another frame's. -/
def busy (p : Port) (s : State) : State :=
  s.modPort p fun r =>
    { r with window := 3, responses := List.replicate 3 ⟨1, 0x12, .ok, []⟩, replay := some ⟨2, 0x12, 0, none, none⟩ }

/-- P0 DETACHED with its window at 3. -/
def outside : State := State.reset.modPort 0 fun r => { r with window := 3, responses := List.replicate 3 ⟨1, 0x70, .ok, []⟩ }

/-- The frame of a request is taken from P3 after the given state was made busy. -/
abbrev taken₃ (s : State) (code : Byte) (payload : List Byte) : Prop := (busy 3 s).takes 3 1 code payload = true

/-- The same for P1. -/
abbrev taken₁ (s : State) (code : Byte) (payload : List Byte) : Prop := (busy 1 s).takes 1 1 code payload = true

/-- The same for P0. -/
abbrev taken₀ (s : State) (code : Byte) (payload : List Byte) : Prop := (busy 0 s).takes 0 1 code payload = true

theorem witness_StepRunsFrontCommand : ({ desk with pending := [.resetRelease] } : State).pending = .resetRelease :: [] := by
  decide +kernel

theorem witness_StepOnEmptyQueueIdles :
    ({ desk with phase := .resetting } : State).pending = [] ∧ ({ desk with phase := .resetting } : State).phase = .resetting ∧
    ({ desk with phase := .recovering } : State).pending = [] ∧
    ({ desk with phase := .recovering } : State).phase = .recovering ∧
    desk.pending = [] ∧ desk.phase = .serving ∧ desk.addressed = [] ∧ (∀ p, (desk.port p).state ≠ .lapsing) ∧
    ({ desk with addressed := [(15, 2)] } : State).pending = [] ∧
    ({ desk with addressed := [(15, 2)] } : State).phase = .serving ∧
    ({ desk with addressed := [(15, 2)] } : State).addressed ≠ [] := by decide +kernel

theorem witness_ResetEndsThroughRecovery :
    ({ desk with phase := .resetting } : State).phase = .resetting ∧ desk.supplies = true ∧
    ({ desk with supplies := false } : State).supplies = false ∧ desk.resetN = .high ∧
    ({ desk with resetN := .low } : State).resetN = .low ∧ ({ desk with phase := .recovering } : State).phase = .recovering ∧
    ({ desk with phase := .recovering } : State).phase ≠ .resetting ∧ desk.phase ≠ .recovering ∧
    ({ desk with phase := .recovering } : State).phase ≠ .serving ∧ desk.phase = .serving := by decide +kernel

theorem witness_DeviceResetClearsRecords :
    ResetCause.pin = .pin ∧ ∀ level, ResetCause.powerUp level = .powerUp level := ⟨rfl, fun _ => rfl⟩

/-- ATN_N at its two levels: no record, a response, a notice, and a record outside service. -/
theorem test_atn : desk.atn 3 = .high ∧ (busy 3 desk).atn 3 = .low ∧
    (desk.modPort 3 fun r => { r with notices := [.recycled 15 63 255] }).atn 3 = .low ∧
    ({ busy 3 desk with phase := .recovering } : State).atn 3 = .high := by decide +kernel

theorem witness_ResetPulseGivesResetState : show₂.supplies = true ∧ ∀ p, (show₂.port p).select = .high := by decide +kernel

theorem witness_VoidWindowChangesNothing :
    (desk.modPort 3 fun r => { r with select := .void }).serves 3 = false ∧
    ({ desk with phase := .recovering } : State).serves 0 = false := by decide +kernel

theorem witness_FallOfSelectFixesWindow :
    desk.phase = .serving ∧ ({ desk with phase := .recovering } : State).phase ≠ .serving := by decide +kernel

theorem witness_LinkRejectsMalformedFrames :
    desk.serves 3 = true ∧ 32 < (33 : Byte).toNat ∧ (32 : Byte).toNat ≤ 32 ∧ (List.replicate 34 (0 : Byte)).length < 32 + 3 ∧
    (List.replicate 32 (0 : Byte)).length ≤ 32 ∧ 0x15 ≠ frameCrc 0x05 0x12 [] := by decide +kernel

theorem witness_payload_of_32 : (List.replicate 32 (0 : Byte)).length ≤ 32 := by decide +kernel

theorem witness_CrcFollowsPolynomial : crc8 ([1] ++ 2 :: [3]) = crc8 ([1] ++ 2 :: [3]) := by decide +kernel

/-- P3 ATTACHED with its RENEW of tag 9 recorded, its copy given, its window at `window`. -/
def replaying (copy : Option Response) (window : Nat) : State :=
  desk.modPort 3 fun r =>
    { r with window := window, replay := some { tag := 9, code := 0x12, check := frameCrc 9 0x12 [], copy := copy,
                                                parkedOn := none } }

theorem witness_EngineJudgesFrames_unattached :
    (lapsing .thirdStage none desk).serves 3 = true ∧ ((lapsing .thirdStage none desk).port 3).state = .lapsing ∧
    State.reset.serves 3 = true ∧ (State.reset.port 3).state = .detached ∧ RequestName.renew ≠ .attach ∧
    RequestName.renew ≠ .queryDevice ∧
    ((State.reset.modPort 0 fun r => { r with window := 4 }).port 0).window = 4 ∧
    outside.takesDetached 0 (codeOf .queryDevice) [] = true := by decide +kernel

theorem witness_EngineJudgesFrames_attached :
    ((replaying none 3).port 3).replay = some ⟨9, 0x12, frameCrc 9 (codeOf .renew) [], none, none⟩ ∧
    ((replaying (some ⟨9, 0x12, .ok, []⟩) 4).port 3).window = 4 ∧
    ((replaying (some ⟨9, 0x12, .ok, []⟩) 3).port 3).window < 4 ∧
    ((replaying none 4).port 3).matchesReplay 8 (codeOf .renew) (frameCrc 8 (codeOf .renew) []) = false ∧
    ((replaying none 4).port 3).window = 4 ∧ ((replaying none 4).port 3).state = .attached ∧
    (replaying none 4).serves 3 = true ∧ taken₃ desk (codeOf .renew) (List.replicate 32 0) := by decide +kernel

theorem witness_MalformedRequestsRefusedUnknown :
    (∀ name ∈ allRequests, codeOf name ≠ 0x00) ∧ (∀ name ∈ allRequests, codeOf name ≠ 0xFF) ∧ taken₃ desk 0x00 [] ∧
    taken₃ desk 0xFF (List.replicate 32 0) ∧ State.reset.serves 3 = true ∧ (State.reset.port 3).state = .detached ∧
    taken₃ desk (codeOf .renew) [0] ∧ lengthFits .renew [0] = false ∧
    taken₀ desk (codeOf .configureStream) [15, 0xFF, 0] ∧ lengthFits .configureStream [15, 0xFF, 0] = false ∧
    outside.takesDetached 0 (codeOf .attach) [] = true ∧ lengthFits .attach [] = false ∧
    32 < (List.replicate 33 (0 : Byte)).length := by decide +kernel

theorem witness_StatusAndUnknownTransactions : desk.serves 3 = true ∧ (0x00 : Byte) ∉ ([0x01, 0x02, 0x03, 0x04] : List Byte) ∧
    (0x05 : Byte) ∉ ([0x01, 0x02, 0x03, 0x04] : List Byte) := by decide +kernel

/-- A response and a notice to fetch. -/
def held₃ (lost : Nat) : State :=
  desk.modPort 3 fun r =>
    { r with window := 1, responses := [⟨1, 0x12, .ok, []⟩], notices := [.recycled 15 63 255], lost := lost }

theorem witness_FetchResponseRemovesPresentedHead :
    desk.serves 3 = true ∧ 23 < 24 ∧ 24 ≤ 24 ∧ ((held₃ 0).window 3).response = some ⟨1, 0x12, .ok, []⟩ ∧
    ((held₃ 0).port 3).responses = ⟨1, 0x12, .ok, []⟩ :: [] ∧ (held₃ 0).serves 3 = true ∧
    (desk.window 3).response = none := by decide +kernel

theorem witness_FetchNoticeRemovesHeadAndReportsOverflow :
    (desk.window 3).notice = none ∧ ((held₃ 0).window 3).notice = some (.recycled 15 63 255) ∧
    ((held₃ 0).port 3).notices = .recycled 15 63 255 :: [] ∧ ((held₃ 0).port 3).lost = 0 ∧ (held₃ 0).serves 3 = true ∧
    ((held₃ 255).window 3).notice = some (.recycled 15 63 255) ∧
    ((held₃ 255).port 3).notices = .recycled 15 63 255 :: [] ∧ ((held₃ 255).port 3).lost ≠ 0 ∧
    (held₃ 255).serves 3 = true := by decide +kernel

theorem witness_NoticeQueuedDiscardedOrLost :
    (State.reset.port 3).state ≠ .attached ∧ (desk.port 3).state = .attached ∧
    (desk.port 3).mask.getLsbD (Notice.recycled 15 63 0).kind = false ∧
    (desk.port 3).mask.getLsbD (Notice.streamClosing 15 0).kind = true ∧ (desk.port 3).notices.length < 16 ∧
    16 ≤ ((desk.modPort 3 fun r => { r with notices := List.replicate 16 (.overflow 1) }).port 3).notices.length := by
  decide +kernel

theorem witness_AttachOpensSession : outside.takesDetached 0 0x10 [0] = true ∧ outside.takesDetached 0 0x10 [255] = true ∧
    (255 : Byte) ≠ 0 := by decide +kernel

theorem witness_AttachOfAttachedPortRefused : taken₃ desk 0x10 [0] ∧ (lapsing .thirdStage none desk).serves 3 = true ∧
    ((lapsing .thirdStage none desk).port 3).state = .lapsing := by decide +kernel

theorem witness_SweepBeginsAtDetachOrLeaseExpiry : taken₃ desk 0x11 [] ∧ (overdue.port 3).state = .attached ∧
    (overdue.port 3).leaseRemaining = some 0 ∧ (State.reset.port 3).state ≠ .attached ∧
    ((desk.modPort 3 fun r => { r with leaseRemaining := some 1 }).port 3).leaseRemaining ≠ some 0 ∧
    overdue.serves 3 = true ∧ (overdue.port 3).leaseInterval ≠ 0 := by decide +kernel

theorem witness_RenewAnswersSession : taken₃ desk 0x12 [] := by decide +kernel

theorem witness_SetNoticeMaskReplacesMask : taken₃ desk 0x13 [0x03, 0xFE] ∧ taken₃ desk 0x13 [0x00, 0x01] := by
  decide +kernel

theorem witness_CreatePoolTakesLowestUnused :
    taken₃ desk 0x20 [] ∧ (desk.pool 0).state = .unused ∧
    (let s := withPool 0 0 [] (withPool 1 0 [] (withPool 2 0 [] desk));
      taken₃ s 0x20 [] ∧ (s.pool 3).state = .unused ∧ (∀ j, j < 3 → (s.pool j).state ≠ .unused) ∧
      taken₃ (withPool 3 0 [] s) 0x20 [] ∧ ∀ k, ((busy 3 (withPool 3 0 [] s)).pool k).state ≠ .unused) := by decide +kernel

theorem witness_DissolvePoolVacatesFreeList : 3 < (4 : Byte).toNat ∧ taken₃ desk 0x21 [4] ∧ taken₃ desk 0x21 [byte 3] := by
  decide +kernel

theorem witness_ClaimsTakeAbsentOwnership :
    taken₃ desk 0x22 [4] ∧ taken₃ desk 0x22 [byte 3] ∧ 15 < (16 : Byte).toNat ∧ taken₃ desk 0x33 [16] ∧
    taken₃ desk 0x33 [byte 15] := by decide +kernel

/-- Pool 3 of P3 with every record registered and free. -/
def full₃ : State := withPool 3 3 allBuffers desk

theorem witness_RegisterBufferTakesLowestVacant :
    taken₃ desk 0x23 [4, 0, 0, 0, 0, 0, 0] ∧ taken₃ desk 0x23 [byte 3, 0, 0, 0, 0, 0, 0] ∧ (desk.pool 3).state = .unused ∧
    ((withPool 3 0 [] desk).pool 3).owner ≠ some 3 ∧ ((withPool 3 0 [] desk).pool 3).state ≠ .unused ∧
    (full₃.pool 3).owner = some 3 ∧ (full₃.pool 3).state ≠ .unused ∧ taken₃ full₃ 0x23 [byte 3, 0, 0, 0, 0, 0, 0] ∧
    (∀ b, (full₃.buffer b).state ≠ .vacant) ∧
    (let s := withPool 3 3 (allBuffers.take 63) desk;
      taken₃ s 0x23 [byte 3, 0, 0, 0, 0, 0, 0] ∧ (s.pool 3).state ≠ .unused ∧ (s.pool 3).owner = some 3 ∧
      (s.buffer 63).state = .vacant ∧ ∀ c, c < 63 → (s.buffer c).state ≠ .vacant) := by decide +kernel

theorem witness_RetireBufferVacatesOrMarks :
    63 < (64 : Byte).toNat ∧ taken₃ desk 0x24 [64, 0] ∧ taken₃ desk 0x24 [byte 63, 0] ∧ (desk.buffer 63).state = .vacant ∧
    (show₁.buffer 63).state ≠ .vacant ∧ (∀ k, (show₁.buffer 63).pool = some k → (show₁.pool k).owner ≠ some 3) ∧
    taken₃ show₁ 0x24 [byte 63, 7] ∧ (full₃.buffer 63).state ≠ .vacant ∧ (full₃.buffer 63).pool = some 3 ∧
    (full₃.pool 3).owner = some 3 ∧ taken₃ full₃ 0x24 [byte 63, 0] := by decide +kernel

theorem witness_OpenStreamTakesLowestClosed_range :
    taken₀ desk 0x30 [4, 0, 1, 1, 0, 0, 0, 0, 0xFF] ∧ 3 < (4 : Byte).toNat ∧
    taken₀ desk 0x30 [0, 2, 0, 17, 18, 0, 16, 16, 4] ∧ 1 < (2 : Byte).toNat := by decide +kernel

theorem witness_OpenStreamTakesLowestClosed :
    (let payload : List Byte := [byte 3, Policy.every.code, 8, 16, 16, 255, (15 : BitVec 4).setWidth 8,
        (15 : BitVec 4).setWidth 8, absentByte (some (3 : Port))];
      taken₀ desk 0x30 payload ∧ (desk.pool 3).state = .unused ∧
      (let s := withPool 3 0 [] desk;
        taken₀ s 0x30 payload ∧ (s.pool 3).state ≠ .unused ∧ (s.stream 0).state = .closed ∧
        (let v := allStreams.foldl (fun t st => withStream st .latest t) s;
          taken₀ v 0x30 payload ∧ (∀ st, (v.stream st).state ≠ .closed) ∧
          (let u := v.modStream 15 fun _ => Stream.cleared;
            taken₀ u 0x30 payload ∧ (u.stream 15).state = .closed ∧ ∀ w, w < 15 → (u.stream w).state ≠ .closed)))) ∧
    (8 : Byte).toNat ≤ 8 ∧ (16 : Byte).toNat ≤ 16 := by decide +kernel

/-- Every item at the end of its range. -/
def allItems : ConfigItems :=
  { pool := some 3, policy := some 1, depth := some 8, quota := some 16, reserve := some 16, signalLimit := some 255,
    signaller := some 0xFF, producerMask := some 15, consumerMask := some 15 }

/-- No item. -/
def noItems : ConfigItems :=
  { pool := none, policy := none, depth := none, quota := none, reserve := none, signalLimit := none, signaller := none,
    producerMask := none, consumerMask := none }

theorem witness_ConfigureStreamChangesItems :
    allItems.producerMask.isSome = allItems.consumerMask.isSome ∧
    taken₀ show₁ 0x31 (byte 15 :: allItems.selector :: allItems.values) ∧
    taken₀ show₁ 0x31 (16 :: allItems.selector :: allItems.values) ∧
    noItems.producerMask.isSome = noItems.consumerMask.isSome ∧
    taken₀ show₁ 0x31 (byte 15 :: noItems.selector :: noItems.values) := by decide +kernel

theorem allItems_fit : allItems.Fits 2 0 ∧ ¬allItems.poolUnused show₁ := by
  refine ⟨by simp [allItems, ConfigItems.Fits], ?_⟩
  rintro ⟨k, hk, h⟩
  have e : allItems.pool.bind (index? 4) = some (3 : PoolId) := by decide +kernel
  rw [e] at hk
  obtain rfl : k = 3 := by simpa using hk.symm
  revert h; decide +kernel

/-- S15 DRAINING with B62 FILLING and its producer still joined. -/
def draining₁ : State :=
  (bound 62 15 .filling (consumed 15 (produced 15 (withStream 15 .latest (withPool 3 0 [0] desk))))).modStream 15 fun x =>
    { x with state := .draining }

theorem witness_CloseStreamBeginsDrain :
    taken₀ desk 0x32 [16] ∧ taken₀ desk 0x32 [byte 15] ∧ (desk.stream 15).state = .closed ∧
    (show₂.stream 15).state ≠ .closed ∧ (show₂.stream 15).owner ≠ some 3 ∧ taken₃ show₂ 0x32 [byte 15] ∧
    (draining₁.stream 15).state = .draining ∧ (draining₁.stream 15).owner = some 0 ∧ taken₀ draining₁ 0x32 [byte 15] ∧
    (show₂.stream 15).state = .live ∧ (show₂.stream 15).owner = some 0 ∧ taken₀ show₂ 0x32 [byte 15] := by decide +kernel

theorem witness_JoinProducerMakesStreamLive : taken₃ desk 0x34 [16] ∧ taken₃ desk 0x34 [byte 15] := by decide +kernel

theorem witness_LeaveEndsRole :
    taken₀ desk 0x35 [16] ∧ taken₀ desk 0x35 [byte 15] ∧ (desk.stream 15).state = .closed ∧
    (show₂.stream 15).state ≠ .closed ∧ (show₂.stream 15).producer ≠ some 0 ∧
    (∀ c, ¬(((show₂.stream 15).slot c).occupied = true ∧ ((show₂.stream 15).slot c).port = some 0)) ∧
    taken₀ show₂ 0x35 [byte 15] ∧ (show₂.stream 15).producer = some 1 ∧ taken₁ show₂ 0x35 [byte 15] ∧
    (show₂.stream 15).producer ≠ some 3 ∧ ((show₂.stream 15).slot 0).occupied = true ∧
    ((show₂.stream 15).slot 0).port = some 3 ∧ taken₃ show₂ 0x35 [byte 15] ∧
    (∀ d, d < (0 : SlotId) → ¬(((show₂.stream 15).slot d).occupied = true ∧ ((show₂.stream 15).slot d).port = some 3)) := by
  decide +kernel

/-- S15 LIVE with P1 producing, nothing bound, over pool 3 with the given free list. -/
def acquiring (free : List BufferId) (parked : Option Parked) : State :=
  (produced 15 (withStream 15 .latest (withPool 3 0 free desk))).modStream 15 fun x => { x with parked := parked }

theorem witness_AcquireGrantsOrParks_refusals :
    taken₁ desk 0x40 [16, 0] ∧ taken₁ desk 0x40 [byte 15, 0] ∧ (desk.stream 15).state = .closed ∧
    taken₁ draining₁ 0x40 [byte 15, 0] ∧ (draining₁.stream 15).state = .draining ∧ taken₃ show₂ 0x40 [byte 15, 0] ∧
    (show₂.stream 15).state = .live ∧ (show₂.stream 15).producer ≠ some 3 ∧ taken₁ show₂ 0x40 [byte 15, 255] ∧
    (show₂.stream 15).producer = some 1 ∧ (show₂.stream 15).quota ≤ show₂.outstanding 15 := by decide +kernel

theorem witness_AcquireGrantsOrParks :
    (let s := acquiring [] (some ⟨255, 2550⟩);
      taken₁ s 0x40 [byte 15, 255] ∧ (s.stream 15).state = .live ∧ (s.stream 15).producer = some 1 ∧
      s.outstanding 15 < (s.stream 15).quota ∧ (s.stream 15).parked = some ⟨255, 2550⟩) ∧
    (let s := acquiring [] none;
      taken₁ s 0x40 [byte 15, 0] ∧ taken₁ s 0x40 [byte 15, 255] ∧ (255 : Byte) ≠ 0 ∧ s.outstanding 15 < (s.stream 15).quota ∧
      (s.stream 15).parked = none ∧ (s.pool (s.stream 15).pool).free = [] ∧ (s.stream 15).state = .live ∧
      (s.stream 15).producer = some 1) ∧
    (let s := acquiring [63] none;
      taken₁ s 0x40 [byte 15, 0] ∧ s.outstanding 15 < (s.stream 15).quota ∧ (s.stream 15).parked = none ∧
      (s.pool (s.stream 15).pool).free = 63 :: [] ∧ (s.stream 15).state = .live ∧ (s.stream 15).producer = some 1) := by
  decide +kernel

theorem witness_ParkedAcquireEnds :
    ((acquiring [] none).stream 15).parked = none ∧ ((acquiring [] (some ⟨0, 0⟩)).stream 15).parked = some ⟨0, 0⟩ ∧
    ((acquiring [] (some ⟨0, 0⟩)).stream 15).producer = some 1 ∧
    ((acquiring [] (some ⟨255, 1⟩)).stream 15).parked = some ⟨255, 1⟩ ∧
    ((acquiring [] (some ⟨255, 1⟩)).stream 15).producer = some 1 := by decide +kernel

theorem witness_AbandonReleasesBuffer :
    taken₁ show₁ 0x41 [64, 7] ∧ taken₁ show₁ 0x41 [byte 63, 6] ∧ (show₁.buffer 63).generation ≠ 6 ∧
    taken₁ show₂ 0x41 [byte 63, 7] ∧ (show₂.buffer 63).generation = 7 ∧ (show₂.buffer 63).state ≠ .filling ∧
    taken₃ show₁ 0x41 [byte 63, 7] ∧ (show₁.buffer 63).generation = 7 ∧ (show₁.buffer 63).state = .filling ∧
    (∀ st, (show₁.buffer 63).stream = some st → (show₁.stream st).producer ≠ some 3) ∧ taken₁ show₁ 0x41 [byte 63, 7] ∧
    (show₁.buffer 63).stream = some 15 ∧ (show₁.stream 15).producer = some 1 := by decide +kernel

theorem witness_PublishAppendsDropsOrRefuses_refusals :
    taken₁ show₁ 0x42 [64, 7, 0] ∧ taken₁ show₁ 0x42 [63, 7, 2] ∧ 63 < (64 : Byte).toNat ∧ 1 < (2 : Byte).toNat ∧
    taken₁ show₁ 0x42 [byte 63, 6, 1] ∧ taken₁ show₂ 0x42 [byte 63, 7, 1] ∧ taken₃ show₁ 0x42 [byte 63, 7, 1] ∧
    taken₁ (bound 63 15 .filling draining₁) 0x42 [byte 63, 7, 0] ∧
    ((bound 63 15 .filling draining₁).stream 15).state = .draining ∧
    ((bound 63 15 .filling draining₁).buffer 63).state = .filling ∧
    ((bound 63 15 .filling draining₁).stream 15).producer = some 1 := by decide +kernel

/-- S15 with B61 and B62 listed, its depth, and B63 FILLING. -/
def crowded (policy : Policy) (signalled : Bool) : State :=
  bound 63 15 .filling (listing 15 [entry 61 1 false none, entry 62 2 signalled none]
    (bound 62 15 .published (bound 61 15 .published (produced 15 (withStream 15 policy (withPool 3 0 [0] desk))))))

theorem witness_PublishAppendsDropsOrRefuses :
    taken₁ show₁ 0x42 [byte 63, 7, 1] ∧ (show₁.buffer 63).stream = some 15 ∧ (show₁.stream 15).producer = some 1 ∧
    (show₁.stream 15).state ≠ .draining ∧ (show₁.stream 15).list.length < (show₁.stream 15).depth ∧
    (let s := crowded .every true;
      taken₁ s 0x42 [byte 63, 7, 0] ∧ (s.buffer 63).state = .filling ∧ (s.stream 15).state ≠ .draining ∧
      (s.stream 15).depth ≤ (s.stream 15).list.length ∧ (s.stream 15).policy = .every) ∧
    (let s := crowded .latest false;
      taken₁ s 0x42 [byte 63, 7, 0] ∧ (s.stream 15).depth ≤ (s.stream 15).list.length ∧
      ∀ e ∈ (s.stream 15).list, e.signalled = false) ∧
    (let s := crowded .latest true;
      taken₁ s 0x42 [byte 63, 7, 1] ∧ (s.buffer 63).generation = 7 ∧ (s.buffer 63).state = .filling ∧
      (s.buffer 63).stream = some 15 ∧ (s.stream 15).producer = some 1 ∧ (s.stream 15).state ≠ .draining ∧
      (s.stream 15).depth ≤ (s.stream 15).list.length ∧ (s.stream 15).policy = .latest ∧
      (s.stream 15).list = [entry 61 1 false none] ++ entry 62 2 true none :: [] ∧ (entry 62 2 true none).signalled = true ∧
      (∀ d ∈ [entry 61 1 false none], d.signalled = false) ∧ ((s.stream 15).list.map Entry.buffer).Nodup) := by
  decide +kernel

theorem witness_SignalCompletesEntry :
    taken₁ show₂ 0x43 [64, 7] ∧ taken₁ show₂ 0x43 [byte 63, 6] ∧ (show₂.buffer 63).generation ≠ 6 ∧
    taken₁ show₁ 0x43 [byte 63, 7] ∧ (show₁.buffer 63).generation = 7 ∧ (show₁.buffer 63).state ≠ .published ∧
    taken₃ show₂ 0x43 [byte 63, 7] ∧ (show₂.buffer 63).generation = 7 ∧ (show₂.buffer 63).state = .published ∧
    (show₂.buffer 63).stream = some 15 ∧ ((show₂.stream 15).signaller.or (show₂.stream 15).producer) ≠ some 3 ∧
    taken₁ show₂ 0x43 [byte 63, 7] ∧ ((show₂.stream 15).signaller.or (show₂.stream 15).producer) = some 1 ∧
    (show₂.stream 15).list = [entry 62 1 true none] ++ entry 63 2 false (some 0) :: [] ∧
    (show₂.stream 15).list = [] ++ entry 62 1 true none :: [entry 63 2 false (some 0)] ∧
    ((show₂.stream 15).list.map Entry.buffer).Nodup ∧ taken₁ show₂ 0x43 [byte 62, 7] := by decide +kernel

theorem witness_SignalExpiryRemovesEntry :
    (∀ e ∈ (show₂.stream 15).list, e.buffer = 62 → e.signalled = true ∨ e.deadline ≠ some 0) ∧
    (∀ e ∈ ((listing 15 [entry 63 2 false (some 1)] show₂).stream 15).list, e.buffer = 63 →
      e.signalled = true ∨ e.deadline ≠ some 0) ∧
    (show₂.stream 15).list = [entry 62 1 true none] ++ entry 63 2 false (some 0) :: [] ∧
    ((show₂.stream 15).list.map Entry.buffer).Nodup ∧ (entry 63 2 false (some 0)).signalled = false ∧
    (entry 63 2 false (some 0)).deadline = some 0 := by decide +kernel

theorem witness_SettlingRemovesUnneededEntries :
    ((show₂.stream 15).list.map Entry.buffer).Nodup ∧ (show₂.stream 15).policy = .every ∧
    (((crowded .latest true).stream 15).list.map Entry.buffer).Nodup ∧ ((crowded .latest true).stream 15).policy = .latest ∧
    ((crowded .latest true).stream 15).list = [] ++ entry 61 1 false none :: [entry 62 2 true none] := by decide +kernel

/-- S15 with B63 current in slot C0 and no longer listed. -/
def showing : State :=
  (bound 63 15 .held (consumed 15 (produced 15 (withStream 15 .latest (withPool 3 0 [0] desk))))).modBuffer 63 (fun r =>
    { r with holds := 1 }) |>.modStream 15 fun x => x.modSlot 0 fun c =>
      { c with current := some 63, currentSequence := some 65535, repeats := 254, threshold := 255 }

theorem witness_ReleaseAndHoldsMoveBuffers :
    (show₁.buffer 63).state = .filling ∧ (show₁.buffer 63).pool = some 3 ∧ (show₁.buffer 63).stream = some 15 ∧
    (show₁.buffer 63).retiring = false ∧
    ((show₁.modBuffer 63 fun r => { r with retiring := true }).buffer 63).retiring = true ∧
    (showing.buffer 63).state = .held ∧ (showing.buffer 63).holds ≤ 1 ∧ (show₂.buffer 63).state ≠ .held ∧
    (show₂.buffer 63).state = .published ∧ (show₂.buffer 63).holds = 0 ∧
    ((show₂.modBuffer 63 fun r => { r with holds := 3 }).buffer 63).holds ≠ 0 ∧
    1 < ((showing.modBuffer 63 fun r => { r with holds := 3 }).buffer 63).holds := by decide +kernel

/-- S14 and S15 wait on pool 3, which holds B63; S15 alone is below its reserve. -/
def waiting : State :=
  ((((produced 14 (withStream 14 .latest (produced 15 (withStream 15 .latest (withPool 3 0 [63] desk))))).modStream 15 fun x =>
    { x with reserve := 1, parked := some ⟨1, 0⟩ }).modStream 14 fun x => { x with parked := some ⟨2, 2550⟩ }).modPool 3
      fun q => { q with wait := [14, 15] })

theorem witness_LeavingMovesBuffersAndClearsSlots :
    ((show₂.stream 15).list.map Entry.buffer).Nodup ∧ ((showing.stream 15).slot 0).current = some 63 := by decide +kernel

theorem witness_ArbiterGrantsInOrder_reserve :
    (waiting.pool 3).free = 63 :: [] ∧ (waiting.pool 3).wait = [14] ++ 15 :: [] ∧
    waiting.outstanding 15 < (waiting.stream 15).quota ∧ waiting.outstanding 15 < (waiting.stream 15).reserve ∧
    (∀ u ∈ [(14 : StreamId)], (waiting.stream u).quota ≤ waiting.outstanding u ∨
      (waiting.stream u).reserve ≤ waiting.outstanding u) ∧
    (waiting.stream 15).pool = 3 ∧ (waiting.stream 15).parked = some ⟨1, 0⟩ ∧ (waiting.stream 15).producer = some 1 := by
  decide +kernel

theorem witness_ArbiterGrantsInOrder_quota :
    (desk.pool 3).free = [] ∧
    (let s := waiting.modStream 15 fun x => { x with reserve := 0 };
      (s.pool 3).free = 63 :: [] ∧ (s.pool 3).wait = [] ++ 14 :: [15] ∧ s.outstanding 14 < (s.stream 14).quota ∧
      (∀ u ∈ (s.pool 3).wait, (s.stream u).quota ≤ s.outstanding u ∨ (s.stream u).reserve ≤ s.outstanding u) ∧
      (s.stream 14).pool = 3 ∧ (s.stream 14).parked = some ⟨2, 2550⟩ ∧ (s.stream 14).producer = some 1) := by decide +kernel

theorem witness_DrainCompletesWhenEmpty :
    (let s := (withStream 15 .latest desk).modStream 15 fun x => { x with state := .draining };
      (s.stream 15).state = .draining ∧ (s.stream 15).producer = none ∧ (∀ c, ((s.stream 15).slot c).occupied = false) ∧
      ∀ b, (s.buffer b).stream ≠ some 15) ∧
    (show₂.stream 15).state ≠ .draining ∧ (draining₁.stream 15).producer ≠ none := by decide +kernel

theorem witness_JoinConsumerTakesLowestSlot_refusals :
    taken₀ desk 0x50 [16, 0, 0] ∧ taken₀ desk 0x50 [byte 15, 0, 0] ∧ (desk.stream 15).state = .closed ∧
    taken₀ show₂ 0x50 [byte 15, 5, 0] ∧ (show₂.stream 15).state ≠ .closed ∧ 4 < (5 : Byte).toNat ∧
    (4 : Byte) = (Source.timer 3).code ∧ taken₀ draining₁ 0x50 [byte 15, 4, 0] ∧ (draining₁.stream 15).state = .draining ∧
    (let s := show₂.modStream 15 fun x => { x with consumerMask := 14 };
      taken₀ s 0x50 [byte 15, 4, 0] ∧ (s.stream 15).state = .live ∧ (s.stream 15).consumerMask.getLsbD 0 = false) ∧
    taken₃ show₂ 0x50 [byte 15, 4, 0] ∧ (show₂.stream 15).consumerMask.getLsbD 3 = true ∧
    (∃ c, ((show₂.stream 15).slot c).occupied = true ∧ ((show₂.stream 15).slot c).port = some 3) ∧
    (let s := show₂.modStream 15 fun x => { x with slots := Vector.replicate 3 { Slot.cleared with occupied := true, port := some 2 } };
      taken₀ s 0x50 [byte 15, 4, 0] ∧ ∀ c, ((s.stream 15).slot c).occupied = true ∧ ((s.stream 15).slot c).port ≠ some 0) := by
  decide +kernel

theorem witness_JoinConsumerTakesLowestSlot :
    taken₀ show₂ 0x50 [byte 15, Source.line.code, 255] ∧ (show₂.stream 15).state = .live ∧
    (show₂.stream 15).consumerMask.getLsbD 0 = true ∧ (show₂.stream 15).producer ≠ some 0 ∧
    (∀ d, ((show₂.stream 15).slot d).occupied = true → ((show₂.stream 15).slot d).port ≠ some 0) ∧
    ((show₂.stream 15).slot 1).occupied = false ∧
    ∀ d, d < (1 : SlotId) → ((show₂.stream 15).slot d).occupied = true := by decide +kernel

theorem witness_RetuneConsumerChangesSource :
    taken₃ desk 0x51 [16, 0, 0] ∧ taken₃ desk 0x51 [byte 15, 0, 0] ∧ (desk.stream 15).state = .closed ∧
    taken₃ show₂ 0x51 [byte 15, 5, 0] ∧ (show₂.stream 15).state ≠ .closed ∧ taken₀ show₂ 0x51 [byte 15, 4, 0] ∧
    (∀ c, ¬(((show₂.stream 15).slot c).occupied = true ∧ ((show₂.stream 15).slot c).port = some 0)) ∧
    taken₃ show₂ 0x51 [byte 15, (Source.timer 3).code, 255] ∧ ((show₂.stream 15).slot 0).occupied = true ∧
    ((show₂.stream 15).slot 0).port = some 3 ∧
    (∀ d, d < (0 : SlotId) → ¬(((show₂.stream 15).slot d).occupied = true ∧ ((show₂.stream 15).slot d).port = some 3)) := by
  decide +kernel

theorem witness_AckStallClearsStatus :
    taken₃ desk 0x52 [16] ∧ taken₃ desk 0x52 [byte 15] ∧ (desk.stream 15).state = .closed ∧ taken₀ show₂ 0x52 [byte 15] ∧
    (∀ c, ¬(((show₂.stream 15).slot c).occupied = true ∧ ((show₂.stream 15).slot c).port = some 0)) ∧
    taken₃ show₂ 0x52 [byte 15] ∧ (show₂.stream 15).state ≠ .closed ∧ ((show₂.stream 15).slot 0).occupied = true ∧
    ((show₂.stream 15).slot 0).port = some 3 := by decide +kernel

/-- A boundary addressed to slot C0 of S15. -/
def due (s : State) : State := { s with addressed := [(15, 0)] }

theorem witness_BoundaryFlipsOrRepeats_flip :
    ((15 : StreamId), (0 : SlotId)) ∉ show₂.addressed ∧ ((15 : StreamId), (0 : SlotId)) ∈ (due show₂).addressed ∧
    ((due draining₁).stream 15).state = .draining ∧ (((due show₂).stream 15).slot 0).occupied = true ∧
    ((due show₂).stream 15).state = .live ∧
    ((due show₂).stream 15).list = [] ++ entry 62 1 true none :: [entry 63 2 false (some 0)] ∧
    (((due show₂).stream 15).list.map Entry.buffer).Nodup ∧ ((due show₂).stream 15).policy = .every ∧
    (let s := listing 15 [entry 62 1 true none, entry 63 2 true none] (show₂.modStream 15 fun x => { x with policy := .latest });
      (s.stream 15).list = [entry 62 1 true none] ++ entry 63 2 true none :: [] ∧ (s.stream 15).policy = .latest ∧
      ((s.stream 15).list.map Entry.buffer).Nodup ∧ ((s.stream 15).slot 0).occupied = true) := by decide +kernel

theorem witness_BoundaryFlipsOrRepeats_repeat :
    (let s := due show₁;
      ((s.stream 15).slot 0).occupied = true ∧ (s.stream 15).state = .live ∧ (s.stream 15).policy = .latest ∧
      (∀ d ∈ (s.stream 15).list, d.signalled = true → d.passed.has 0 = true) ∧ ((s.stream 15).slot 0).current = none) ∧
    (let s := due showing;
      (s.stream 15).policy = .latest ∧ (∀ d ∈ (s.stream 15).list, d.signalled = true → d.passed.has 0 = true) ∧
      ((s.stream 15).slot 0).current = some 63 ∧ (s.stream 15).state = .live ∧ ((s.stream 15).slot 0).threshold ≠ 0 ∧
      ((s.stream 15).slot 0).threshold ≤ min 255 (((s.stream 15).slot 0).repeats + 1) ∧
      ((s.stream 15).slot 0).stalled = false ∧ ((s.stream 15).slot 0).occupied = true) ∧
    (let s := due (showing.modStream 15 fun x => { x with policy := .every }.modSlot 0 fun c => { c with repeats := 253 });
      (s.stream 15).policy = .every ∧ (s.stream 15).list = [] ∧ ((s.stream 15).slot 0).current = some 63 ∧
      ¬(((s.stream 15).slot 0).threshold ≤ min 255 (((s.stream 15).slot 0).repeats + 1))) := by decide +kernel

theorem witness_TimerStartsAndStops :
    taken₃ desk 0x60 [4, 0, 1] ∧ 3 < (4 : Byte).toNat ∧ taken₃ desk 0x60 [3, 0, 0] ∧ ((0 : Byte) ++ (0 : Byte) : Half) = 0 ∧
    taken₃ desk 0x60 [byte 3, 0xFF, 0xFF] ∧ ((0xFF : Byte) ++ (0xFF : Byte) : Half) ≠ 0 ∧ taken₃ desk 0x60 [byte 0, 0, 1] ∧
    ((0 : Byte) ++ (1 : Byte) : Half) ≠ 0 ∧ taken₃ desk 0x61 [4] ∧ taken₃ desk 0x61 [byte 3] ∧ taken₃ desk 0x62 [4] ∧
    taken₃ desk 0x62 [byte 3] := by decide +kernel

theorem witness_EdgesAndExpiriesAddressSlots :
    desk.phase ≠ .resetting ∧ (desk.port 3).bnd = .low ∧ ({ desk with phase := .resetting } : State).phase = .resetting ∧
    ((desk.modPort 3 fun r => { r with bnd := .high }).port 3).bnd = .high ∧
    (let s := desk.modTimer 3 fun r => { r with state := .running, remaining := some 0 };
      (s.timer 3).state = .running ∧ (s.timer 3).remaining = some 0) ∧
    (desk.timer 3).state = .stopped ∧
    ((desk.modTimer 3 fun r => { r with state := .running, remaining := some 1 }).timer 3).remaining ≠ some 0 := by decide +kernel

theorem witness_QueriesReportAndChangeNothing :
    taken₃ desk 0x70 [] ∧ outside.takesDetached 0 0x70 [] = true ∧ taken₃ desk 0x71 [4] ∧ taken₃ desk 0x71 [byte 3] ∧
    taken₃ desk 0x72 [4, 0] ∧ taken₃ desk 0x72 [byte 3, 5] ∧ taken₃ desk 0x72 [byte 3, 4] ∧ (4 : Byte).toNat ≤ 4 ∧
    4 < (5 : Byte).toNat ∧ taken₃ desk 0x72 [4] ∧ taken₃ desk 0x72 [byte 3] ∧ taken₃ desk 0x73 [16, 0, 0] ∧
    taken₃ show₂ 0x73 [byte 15, 1, 1] ∧ taken₃ desk 0x73 [16, 0] ∧ taken₃ desk 0x73 [byte 15, 5] ∧
    taken₃ show₂ 0x73 [byte 15, 5] ∧ taken₃ show₂ 0x73 [byte 15, 4] ∧ (show₂.stream 15).state ≠ .closed ∧ taken₃ desk 0x74 [64] ∧
    taken₃ desk 0x74 [byte 63] ∧ (desk.buffer 63).state ≠ .published ∧ taken₃ show₂ 0x74 [byte 63] ∧
    (show₂.buffer 63).state = .published ∧ (show₂.buffer 63).stream = some 15 ∧
    (show₂.stream 15).list = [entry 62 1 true none] ++ entry 63 2 false (some 0) :: [] ∧
    ((show₂.stream 15).list.map Entry.buffer).Nodup := by decide +kernel

/-- P3 lapsing at the step of stream S15. -/
def lapsing₁₅ (s : State) : State := lapsing (.stream 15) none s

theorem witness_StreamStepMakesItsParts :
    ¬((desk.port 3).state = .lapsing ∧ (desk.port 3).sweep.map Sweep.next = some (.stream 15)) ∧
    ((lapsing₁₅ desk).port 3).state = .lapsing ∧ ((lapsing₁₅ desk).port 3).sweep.map Sweep.next = some (.stream 15) ∧
    ((lapsing₁₅ desk).stream 15).state = .closed ∧
    (let s := (lapsing₁₅ show₁).modStream 15 fun x => { x with producer := some 3, slots := Vector.replicate 3 Slot.cleared };
      (s.stream 15).state ≠ .closed ∧ (s.stream 15).producer = some 3) ∧
    (let s := lapsing₁₅ show₁;
      (s.stream 15).state ≠ .closed ∧ (s.stream 15).producer ≠ some 3 ∧ ((s.stream 15).slot 0).occupied = true ∧
      ((s.stream 15).slot 0).port = some 3) ∧
    (let s := lapsing₁₅ ((withStream 15 .latest desk).modStream 15 fun x => { x with signaller := some 3 });
      (s.stream 15).state ≠ .closed ∧ (s.stream 15).producer ≠ some 3 ∧
      (∀ c, ¬(((s.stream 15).slot c).occupied = true ∧ ((s.stream 15).slot c).port = some 3)) ∧
      (s.stream 15).signaller = some 3) ∧
    (let s := lapsing₁₅ ((withStream 15 .latest desk).modStream 15 fun x => { x with owner := some 3 });
      (s.stream 15).state ≠ .closed ∧ (s.stream 15).producer ≠ some 3 ∧ (s.stream 15).signaller ≠ some 3 ∧
      (s.stream 15).owner = some 3) := by decide +kernel

theorem witness_SweepEndsAfterFourthStage :
    ((lapsing .thirdStage (some 255) desk).port 3).state = .lapsing ∧
    ((lapsing .thirdStage (some 255) desk).port 3).sweep = some ⟨.thirdStage, some 255⟩ ∧
    ((lapsing .fourthStage none desk).port 3).sweep = some ⟨.fourthStage, none⟩ ∧
    ((lapsing .fourthStage (some 255) desk).port 3).sweep = some ⟨.fourthStage, some 255⟩ ∧
    ((lapsing .fourthStage none desk).port 3).sweep.map Sweep.next ≠ some .thirdStage ∧
    ((lapsing .thirdStage none desk).port 3).sweep.map Sweep.next ≠ some .fourthStage ∧ (desk.port 3).state ≠ .lapsing := by
  decide +kernel

/-! ### A state that has every invariant -/

/-- S15 LIVE with B63 in slot C0's display, B62 listed and signalled, B1 listed and unsignalled, B0 free, P1's ACQUIRE parked, and P3,
the slot's port, lapsing at the stream's step. -/
def sound : State :=
  let s := lapsing₁₅ (listing 15 [entry 62 1 true none, entry 1 2 false (some 0)]
    (bound 62 15 .published (bound 1 15 .published showing)))
  { ((s.modStream 15 fun x => { x with parked := some ⟨1, 2550⟩ }).modPool 3 fun q => { q with wait := [15] }).modPort 1
      fun r => { r with window := 1 } with
    pending := [.streamStep 3 15] }

theorem sound_ports : PortsSound sound := fun p =>
  { notices := by revert p; decide +kernel
    lost := by revert p; decide +kernel
    lostFull := by revert p; decide +kernel
    mask := by revert p; decide +kernel
    interval := by revert p; decide +kernel
    lease := by revert p; decide +kernel
    sweep := by revert p; decide +kernel
    unattached := by revert p; decide +kernel }

theorem sound_streams : StreamsSound sound := fun st =>
  { closed := by revert st; decide +kernel
    depth := by revert st; decide +kernel
    quota := by revert st; decide +kernel
    reserve := by revert st; decide +kernel
    list := by revert st; decide +kernel
    producer := by revert st; decide +kernel
    live := by revert st; decide +kernel
    draining := by revert st; decide +kernel
    repeats := by revert st; decide +kernel
    passed := by revert st; decide +kernel
    unoccupied := by revert st; decide +kernel }

theorem sound_windows : WindowsSound sound :=
  { ports := sound_ports
    window := by decide +kernel
    small := by decide +kernel
    lapsing := by decide +kernel
    parked := by decide +kernel }

theorem sound_tables : TablesSound sound :=
  { free := by decide +kernel
    freeOnce := by decide +kernel
    pool := by decide +kernel
    active := by decide +kernel
    bound := by decide +kernel
    named := by decide +kernel
    names := by decide +kernel
    retiring := by decide +kernel
    registered := by decide +kernel
    published := by decide +kernel
    listedOnce := by decide +kernel
    holds := by decide +kernel
    unbound := by decide +kernel
    current := by decide +kernel
    held := by decide +kernel
    filling := by decide +kernel
    wait := by decide +kernel
    waitOnce := by decide +kernel
    unsignalled := by
      have h : ∀ st, ∀ e ∈ (sound.stream st).list, e.signalled = false → (sound.buffer e.buffer).holds = 0 := by decide +kernel
      exact fun st e he => h st e he
    roles := by decide +kernel
    slotsOnce := by decide +kernel
    timer := by decide +kernel
    period := by decide +kernel }

theorem witness_PoolAndStreamAnswersLayOut : (withPool 3 0 allBuffers desk).streams = desk.streams ∧
    (Pool.reset.wait.length ≤ 16) ∧ (sound.stream 15).Sound := ⟨by decide +kernel, by decide +kernel, sound_streams 15⟩

theorem witness_StreamStepRemovesPort : (sound.port 3).state = .lapsing ∧
    (sound.port 3).sweep.map Sweep.next = some (.stream 15) ∧ StreamsSound sound ∧ TablesSound sound :=
  ⟨by decide +kernel, by decide +kernel, sound_streams, sound_tables⟩

theorem witness_StepKeepsInvariants : PortsSound sound ∧ StreamsSound sound ∧ WindowsSound sound ∧ TablesSound sound ∧
    ∃ t, step sound = .next t := ⟨sound_ports, sound_streams, sound_windows, sound_tables, _, rfl⟩

end Sys2Proof.Tests
end

section
/-!
PROOFS. The requests of spec/01_buffers_and_pools.md that make, dissolve and claim a pool, and CLAIM_STREAM: what each request's body
answers, by its checks in order, and the statements about its row.
-/

namespace Sys2Proof.Machine

/-! ### From a request's body to its row -/

/-- The row of a request taken from an ATTACHED port whose body performs it: the answer OK after the body's effect. -/
theorem exec_answers_ok {s : State} {p : Port} {tag : Byte} {name : RequestName} {payload data : List Byte} {effect : State → State}
    (h : s.takes p tag (codeOf name) payload = true)
    (hb : requestBody name p tag payload (s.taken p tag (codeOf name) payload) =
      okWith data (effect (s.taken p tag (codeOf name) payload))) :
    exec (requestRow name p tag payload) s = .next (s.answers p tag (codeOf name) payload .ok data effect) := by
  rw [exec_requestRow, sendRequest_responds h hb]
  rfl

/-- The row of a request taken from an ATTACHED port whose body refuses it. -/
theorem exec_refuses {s : State} {p : Port} {tag : Byte} {name : RequestName} {payload : List Byte} {r : ResultCode}
    (h : s.takes p tag (codeOf name) payload = true)
    (hb : requestBody name p tag payload (s.taken p tag (codeOf name) payload) =
      refuse r (s.taken p tag (codeOf name) payload)) :
    exec (requestRow name p tag payload) s = .next (s.refuses p tag (codeOf name) payload r) := by
  rw [exec_requestRow, sendRequest_refuses h hb]

/-! ### CREATE_POOL (R13) -/

theorem createPoolRequest_lowest {s : State} {k : PoolId} (p : Port) (hk : (s.pool k).state = .unused)
    (low : ∀ j, j < k → (s.pool j).state ≠ .unused) :
    createPoolRequest p [] s = okWith [byte k.val]
      (s.modPool k fun _ => { state := .active, owner := some p, free := [], registered := 0, wait := [] }) := by
  have found : allPools.find? (fun j => (s.pool j).state == .unused) = some k := by
    rw [allPools_eq]
    exact find?_finRange (by simp [hk]) fun j hj => by simp [low j hj]
  simp [createPoolRequest, found]

theorem createPoolRequest_noSlot {s : State} (p : Port) (h : ∀ k, (s.pool k).state ≠ .unused) :
    createPoolRequest p [] s = refuse .noSlot s := by
  have found : allPools.find? (fun j => (s.pool j).state == .unused) = none := by
    rw [allPools_eq]
    exact find?_finRange_none fun k => by simp [h k]
  simp [createPoolRequest, found]

/-- Settles O24: the body's search for a pool is decided by which pools are UNUSED. -/
theorem createPoolTakesLowestUnused : Obligations.CreatePoolTakesLowestUnused := by
  intro s p tag h
  exact ⟨fun k hk low => exec_answers_ok (name := .createPool) h (createPoolRequest_lowest p hk low),
    fun full => exec_refuses (name := .createPool) h (createPoolRequest_noSlot p full)⟩

/-! ### DISSOLVE_POOL (R14) -/

theorem dissolvePoolRequest_range {n : Byte} (h : 3 < n.toNat) (p : Port) (s : State) :
    dissolvePoolRequest p [n] s = refuse .range s := by
  simp [dissolvePoolRequest, index?_none (n := 4) h]

section dissolve
variable {s : State} {p : Port} {k : PoolId}

theorem dissolvePoolRequest_noSuch (unused : (s.pool k).state = .unused) :
    dissolvePoolRequest p [byte k.val] s = refuse .noSuch s := by
  simp [dissolvePoolRequest, unused]

theorem dissolvePoolRequest_denied (active : (s.pool k).state ≠ .unused) (foreign : (s.pool k).owner ≠ some p) :
    dissolvePoolRequest p [byte k.val] s = refuse .denied s := by
  simp [dissolvePoolRequest, active, foreign]

theorem dissolvePoolRequest_badState (active : (s.pool k).state ≠ .unused) (own : (s.pool k).owner = some p)
    (named : ∃ st, (s.stream st).state ≠ .closed ∧ (s.stream st).pool = k) :
    dissolvePoolRequest p [byte k.val] s = refuse .badState s := by
  simp [dissolvePoolRequest, active, own, poolNamed_eq_true.mpr named]

/-- The walk over the free list is one change of the buffer bank, whatever the list's order. -/
theorem dissolvePoolRequest_ok (active : (s.pool k).state ≠ .unused) (own : (s.pool k).owner = some p)
    (unnamed : ¬ ∃ st, (s.stream st).state ≠ .closed ∧ (s.stream st).pool = k) :
    dissolvePoolRequest p [byte k.val] s =
      okWith [] ((s.mapBuffers fun b r => if b ∈ (s.pool k).free then r.unregistered else r).modPool k
        fun q => { q with state := .unused, owner := none, free := [], registered := 0 }) := by
  rw [← poolNamed_eq_true] at unnamed
  simp [dissolvePoolRequest, active, own, unnamed, unregisterAll_eq]

end dissolve

/-- Settles O25, by the four checks in the order of R14. -/
theorem dissolvePoolVacatesFreeList : Obligations.DissolvePoolVacatesFreeList := by
  intro s p tag
  refine ⟨fun n hn h => exec_refuses (name := .dissolvePool) h (dissolvePoolRequest_range hn p _), fun k h => ?_⟩
  split_ifs with unused foreign named
  · exact exec_refuses (name := .dissolvePool) h (dissolvePoolRequest_noSuch unused)
  · exact exec_refuses (name := .dissolvePool) h (dissolvePoolRequest_denied unused foreign)
  · exact exec_refuses (name := .dissolvePool) h (dissolvePoolRequest_badState unused (not_not.mp foreign) named)
  · exact exec_answers_ok (name := .dissolvePool) h (dissolvePoolRequest_ok unused (not_not.mp foreign) named)

/-! ### CLAIM_POOL (R15) -/

theorem claimPoolRequest_range {n : Byte} (h : 3 < n.toNat) (p : Port) (s : State) :
    claimPoolRequest p [n] s = refuse .range s := by
  simp [claimPoolRequest, index?_none (n := 4) h]

section claimPool
variable {s : State} {p : Port} {k : PoolId}

theorem claimPoolRequest_noSuch (unused : (s.pool k).state = .unused) :
    claimPoolRequest p [byte k.val] s = refuse .noSuch s := by
  simp [claimPoolRequest, unused]

theorem claimPoolRequest_of_ownerless (active : (s.pool k).state ≠ .unused) (ownerless : (s.pool k).owner = none) :
    claimPoolRequest p [byte k.val] s = okWith [] (s.modPool k fun q => { q with owner := some p }) := by
  simp [claimPoolRequest, active, ownerless]

theorem claimPoolRequest_of_own (active : (s.pool k).state ≠ .unused) (own : (s.pool k).owner = some p) :
    claimPoolRequest p [byte k.val] s = okWith [] s := by
  simp [claimPoolRequest, active, own]

theorem claimPoolRequest_denied (active : (s.pool k).state ≠ .unused) (owned : (s.pool k).owner ≠ none)
    (foreign : (s.pool k).owner ≠ some p) :
    claimPoolRequest p [byte k.val] s = refuse .denied s := by
  obtain ⟨o, ho⟩ := Option.ne_none_iff_exists'.mp owned
  have other : o ≠ p := by simpa [ho] using foreign
  simp [claimPoolRequest, active, ho, other]

end claimPool

/-! ### CLAIM_STREAM (R41) -/

theorem claimStreamRequest_range {n : Byte} (h : 15 < n.toNat) (p : Port) (s : State) :
    claimStreamRequest p [n] s = refuse .range s := by
  simp [claimStreamRequest, index?_none (n := 16) h]

section claimStream
variable {s : State} {p : Port} {st : StreamId}

theorem claimStreamRequest_noSuch (closed : (s.stream st).state = .closed) :
    claimStreamRequest p [byte st.val] s = refuse .noSuch s := by
  simp [claimStreamRequest, closed]

theorem claimStreamRequest_of_own (opened : (s.stream st).state ≠ .closed) (own : (s.stream st).owner = some p) :
    claimStreamRequest p [byte st.val] s = okWith [] s := by
  simp [claimStreamRequest, opened, own]

/-- The port is outside both admit masks of a stream that has a member (R41): it may not claim it. -/
def Stream.Excludes (x : Stream) (p : Port) : Prop :=
  x.producerMask.getLsbD p.val = false ∧ x.consumerMask.getLsbD p.val = false ∧
    (x.producer ≠ none ∨ ∃ c, (x.slot c).occupied = true)

/-- The model's test of the two masks and the members is `Stream.Excludes`. -/
theorem excludes_iff {x : Stream} :
    x.Excludes p ↔ admits x.producerMask p = false ∧ admits x.consumerMask p = false ∧ x.hasMember = true := by
  rw [hasMember_eq_true]
  rfl

theorem claimStreamRequest_excluded (opened : (s.stream st).state ≠ .closed) (foreign : (s.stream st).owner ≠ some p)
    (excluded : (s.stream st).Excludes p) : claimStreamRequest p [byte st.val] s = refuse .denied s := by
  simp [claimStreamRequest, opened, foreign, excludes_iff.mp excluded]

theorem claimStreamRequest_owned (opened : (s.stream st).state ≠ .closed) (foreign : (s.stream st).owner ≠ some p)
    (owned : (s.stream st).owner ≠ none) : claimStreamRequest p [byte st.val] s = refuse .denied s := by
  simp [claimStreamRequest, opened, foreign, Option.isSome_iff_ne_none.mpr owned]

theorem claimStreamRequest_of_ownerless (opened : (s.stream st).state ≠ .closed) (ownerless : (s.stream st).owner = none)
    (admitted : ¬ (s.stream st).Excludes p) :
    claimStreamRequest p [byte st.val] s = okWith [] (s.modStream st fun x => { x with owner := some p }) := by
  rw [excludes_iff] at admitted
  simp only [claimStreamRequest, index?_sixteen, opened, ownerless, admitted, reduceCtorEq, Option.isSome_none, Bool.false_eq_true,
    if_false]

end claimStream

/-- Settles O26: for each of the two rows, by its checks in their order (R15, R41). -/
theorem claimsTakeAbsentOwnership : Obligations.ClaimsTakeAbsentOwnership := by
  intro s p tag
  refine ⟨fun n hn h => exec_refuses (name := .claimPool) h (claimPoolRequest_range hn p _), fun k h => ?_,
    fun n hn h => exec_refuses (name := .claimStream) h (claimStreamRequest_range hn p _), fun st h => ?_⟩
  · split_ifs with unused ownerless own
    · exact exec_refuses (name := .claimPool) h (claimPoolRequest_noSuch unused)
    · exact exec_answers_ok (name := .claimPool) h (claimPoolRequest_of_ownerless unused ownerless)
    · exact exec_answers_ok (name := .claimPool) h (claimPoolRequest_of_own unused own)
    · exact exec_refuses (name := .claimPool) h (claimPoolRequest_denied unused ownerless own)
  · split_ifs with closed own excluded owned
    · exact exec_refuses (name := .claimStream) h (claimStreamRequest_noSuch closed)
    · exact exec_answers_ok (name := .claimStream) h (claimStreamRequest_of_own closed own)
    · exact exec_refuses (name := .claimStream) h (claimStreamRequest_excluded closed own excluded)
    · exact exec_refuses (name := .claimStream) h (claimStreamRequest_owned closed own owned)
    · exact exec_answers_ok (name := .claimStream) h
        (claimStreamRequest_of_ownerless closed (not_not.mp owned) excluded)

end Sys2Proof.Machine
end

section
/-!
PROOFS. JOIN_PRODUCER of spec/02_streams.md: what the request's body answers, by its six checks in order, and the statement about its
row.
-/

namespace Sys2Proof.Machine

/-! ### JOIN_PRODUCER (R34) -/

theorem joinProducerRequest_range {n : Byte} (h : 15 < n.toNat) (p : Port) (s : State) :
    joinProducerRequest p [n] s = refuse .range s := by
  simp [joinProducerRequest, index?_none (n := 16) h]

section joinProducer
variable {s : State} {p : Port} {st : StreamId}

theorem joinProducerRequest_noSuch (closed : (s.stream st).state = .closed) :
    joinProducerRequest p [byte st.val] s = refuse .noSuch s := by
  simp [joinProducerRequest, closed]

theorem joinProducerRequest_closed (draining : (s.stream st).state = .draining) :
    joinProducerRequest p [byte st.val] s = refuse .closed s := by
  simp [joinProducerRequest, draining]

theorem joinProducerRequest_denied (opened : (s.stream st).state ≠ .closed) (running : (s.stream st).state ≠ .draining)
    (excluded : admits (s.stream st).producerMask p = false) :
    joinProducerRequest p [byte st.val] s = refuse .denied s := by
  simp [joinProducerRequest, opened, running, excluded]

/-- Checks 5 and 6 refuse with one code, so the stream's producer and the port's own slot are one condition: the port's slot need not
be looked at where a producer is present. -/
theorem joinProducerRequest_badState (opened : (s.stream st).state ≠ .closed) (running : (s.stream st).state ≠ .draining)
    (admitted : admits (s.stream st).producerMask p ≠ false)
    (barred : (s.stream st).producer ≠ none ∨
      ∃ c, ((s.stream st).slot c).occupied = true ∧ ((s.stream st).slot c).port = some p) :
    joinProducerRequest p [byte st.val] s = refuse .badState s := by
  rw [← Option.isSome_iff_ne_none, ← slotOf_isSome] at barred
  obtain produced | consumer := barred
  · simp [joinProducerRequest, opened, running, admitted, produced]
  · simp [joinProducerRequest, opened, running, admitted, consumer]

theorem joinProducerRequest_ok (opened : (s.stream st).state ≠ .closed) (running : (s.stream st).state ≠ .draining)
    (admitted : admits (s.stream st).producerMask p ≠ false) (unproduced : (s.stream st).producer = none)
    (slotless : ¬ ∃ c, ((s.stream st).slot c).occupied = true ∧ ((s.stream st).slot c).port = some p) :
    joinProducerRequest p [byte st.val] s =
      okWith (bytes16 (s.stream st).nextSequence ++ [byte (s.outstanding st)])
        (s.modStream st fun x => { x with producer := some p, state := .live }) := by
  rw [← slotOf_isSome] at slotless
  simp [joinProducerRequest, opened, running, admitted, unproduced, slotless]

end joinProducer

/-- Settles O32, by the six checks in the order of R34. -/
theorem joinProducerMakesStreamLive : Obligations.JoinProducerMakesStreamLive := by
  intro s p tag
  refine ⟨fun n hn h => exec_refuses (name := .joinProducer) h (joinProducerRequest_range hn p _), fun st h => ?_⟩
  split_ifs with closed draining excluded produced consumer
  · exact exec_refuses (name := .joinProducer) h (joinProducerRequest_noSuch closed)
  · exact exec_refuses (name := .joinProducer) h (joinProducerRequest_closed draining)
  · exact exec_refuses (name := .joinProducer) h (joinProducerRequest_denied closed draining excluded)
  · exact exec_refuses (name := .joinProducer) h (joinProducerRequest_badState closed draining excluded (.inl produced))
  · exact exec_refuses (name := .joinProducer) h (joinProducerRequest_badState closed draining excluded (.inr consumer))
  · exact exec_answers_ok (name := .joinProducer) h
      (joinProducerRequest_ok closed draining excluded (not_not.mp produced) consumer)

end Sys2Proof.Machine
end

section
/-!
PROOFS. ACK_STALL of spec/06_presentation.md: what the request's body answers, by its three checks in order, and the statement about
its row.
-/

namespace Sys2Proof.Machine

/-! ### ACK_STALL (R112) -/

theorem ackStallRequest_range {n : Byte} (h : 15 < n.toNat) (p : Port) (s : State) :
    ackStallRequest p [n] s = refuse .range s := by
  simp [ackStallRequest, index?_none (n := 16) h]

section ackStall
variable {s : State} {p : Port} {st : StreamId}

theorem ackStallRequest_noSuch (closed : (s.stream st).state = .closed) :
    ackStallRequest p [byte st.val] s = refuse .noSuch s := by
  simp [ackStallRequest, closed]

theorem ackStallRequest_denied (opened : (s.stream st).state ≠ .closed)
    (slotless : ∀ c, ¬(((s.stream st).slot c).occupied = true ∧ ((s.stream st).slot c).port = some p)) :
    ackStallRequest p [byte st.val] s = refuse .denied s := by
  simp [ackStallRequest, opened, slotOf_eq_none.mpr slotless]

/-- The body looks the slot up by the port alone, so the states VACANT, LIVE and DRAINING are one case. -/
theorem ackStallRequest_ok {c : SlotId} (opened : (s.stream st).state ≠ .closed) (slot : (s.stream st).slotOf p = some c) :
    ackStallRequest p [byte st.val] s =
      okWith [byte ((s.stream st).slot c).repeats, if ((s.stream st).slot c).stalled then 1 else 0]
        (s.modStream st fun x => x.modSlot c fun k => { k with stalled := false }) := by
  simp [ackStallRequest, opened, slot]

end ackStall

/-- Settles O47, by the three checks in the order of R112. -/
theorem ackStallClearsStatus : Obligations.AckStallClearsStatus := by
  intro s p tag n h
  refine ⟨fun hn => exec_refuses (name := .ackStall) h (ackStallRequest_range hn p _), ?_⟩
  rintro st rfl
  refine ⟨fun closed => ?_, fun opened slotless => ?_, fun c opened occupied own lowest => ?_⟩
  · exact exec_refuses (name := .ackStall) h (ackStallRequest_noSuch closed)
  · exact exec_refuses (name := .ackStall) h (ackStallRequest_denied opened slotless)
  · exact exec_answers_ok (name := .ackStall) h (ackStallRequest_ok opened (slotOf_eq_some occupied own lowest))

end Sys2Proof.Machine
end

section
/-!
PROOFS. Two statements of spec/07_notices.md: the disposal of a notice at queuing (Table 7-4), case by case on the port record, and
SET_NOTICE_MASK: what the request's body answers, and the statement about its row.
-/

namespace Sys2Proof.Machine

/-! ### Disposal at queuing (R123) -/

section receive
variable {r : PortRecord} {n : Notice}

theorem receive_of_unattached (unattached : r.state ≠ .attached) : r.receive n = r := by
  simp [PortRecord.receive, unattached]

theorem receive_of_masked (masked : r.mask.getLsbD n.kind = false) : r.receive n = r := by
  simp [PortRecord.receive, maskEnables, masked]

theorem receive_of_room (attached : r.state = .attached) (enabled : r.mask.getLsbD n.kind = true)
    (room : r.notices.length < 16) : r.receive n = { r with notices := r.notices ++ [n] } := by
  simp [PortRecord.receive, maskEnables, attached, enabled, Config.noticeQueueLength, room]

theorem receive_of_full (attached : r.state = .attached) (enabled : r.mask.getLsbD n.kind = true)
    (full : 16 ≤ r.notices.length) :
    r.receive n = { r with lost := min 255 (r.lost + 1), noticesLost := r.noticesLost + 1 } := by
  simp [PortRecord.receive, maskEnables, attached, enabled, Config.noticeQueueLength, Config.saturation, full]

end receive

/-- Settles O18: each case of Table 7-4 on the port's record, the rest of the state being untouched. -/
theorem noticeQueuedDiscardedOrLost : Obligations.NoticeQueuedDiscardedOrLost := by
  intro s p n
  refine ⟨fun unattached => ?_, fun _ masked => ?_, fun attached enabled room => ?_, fun attached enabled full => ?_⟩
  · exact modPort_eq_self _ _ _ (receive_of_unattached unattached)
  · exact modPort_eq_self _ _ _ (receive_of_masked masked)
  · exact modPort_congr _ _ _ (receive_of_room attached enabled room)
  · exact modPort_congr _ _ _ (receive_of_full attached enabled full)

/-! ### SET_NOTICE_MASK (R122) -/

/-- Some bit of the mask stands outside bits 1 to 9, the nine maskable kinds (Table 10-6). -/
def NamesUnmaskable (mask : Half) : Prop :=
  ∃ i : Fin 16, mask.getLsbD i.val = true ∧ ¬(1 ≤ i.val ∧ i.val ≤ 9)

theorem maskableKinds_getLsbD : ∀ i : Fin 16, maskableKinds.getLsbD i.val = decide (1 ≤ i.val ∧ i.val ≤ 9) := by
  decide

/-- The model's test of a mask is `NamesUnmaskable`. -/
theorem namesUnmaskable_iff {mask : Half} : NamesUnmaskable mask ↔ mask &&& ~~~maskableKinds ≠ 0 := by
  have bitOutside (i : Fin 16) : (mask &&& ~~~maskableKinds).getLsbD i.val = true ↔
      mask.getLsbD i.val = true ∧ ¬(1 ≤ i.val ∧ i.val ≤ 9) := by
    simp only [BitVec.getLsbD_and, BitVec.getLsbD_not, maskableKinds_getLsbD, i.isLt, decide_true, Bool.true_and, Bool.and_eq_true,
      Bool.not_eq_true', decide_eq_false_iff_not]
  constructor
  · rintro ⟨i, outside⟩ zero
    simpa [zero] using (bitOutside i).mpr outside
  · intro nonzero
    by_contra inside
    refine nonzero (BitVec.eq_of_getLsbD_eq fun i hi => ?_)
    simpa using fun set => inside ⟨⟨i, hi⟩, (bitOutside ⟨i, hi⟩).mp set⟩

theorem setNoticeMaskRequest_range {hi lo : Byte} (unmaskable : NamesUnmaskable (hi ++ lo)) (p : Port) (s : State) :
    setNoticeMaskRequest p [hi, lo] s = refuse .range s :=
  if_pos (namesUnmaskable_iff.mp unmaskable)

theorem setNoticeMaskRequest_ok {hi lo : Byte} (maskable : ¬ NamesUnmaskable (hi ++ lo)) (p : Port) (s : State) :
    setNoticeMaskRequest p [hi, lo] s =
      okWith (bytes16 (s.port p).mask) (s.modPort p fun r => { r with mask := hi ++ lo }) :=
  if_neg (mt namesUnmaskable_iff.mpr maskable)

/-- Settles O23: the body's one check, then the mask replaced. The taking of the frame leaves the mask as it was, so the answer is the
mask before the request. -/
theorem setNoticeMaskReplacesMask : Obligations.SetNoticeMaskReplacesMask := by
  intro s p tag hi lo h
  split
  next unmaskable =>
    exact exec_refuses (name := .setNoticeMask) h (setNoticeMaskRequest_range unmaskable p _)
  next maskable =>
    have body := setNoticeMaskRequest_ok maskable p (s.taken p tag 0x13 [hi, lo])
    rw [taken_port_mask] at body
    exact exec_answers_ok (name := .setNoticeMask) h body

end Sys2Proof.Machine
end

section
/-!
PROOFS. ATTACH and RENEW of spec/08_sessions_and_leases.md: what each request's body answers, by its checks in order, what the Request
Engine does with a frame from a LAPSING port, and the statements about the two rows.
-/

namespace Sys2Proof.Machine

/-! ### The taking of a frame (R155) and the renewal of its lease (R139) -/

theorem takes_attached {s : State} {p : Port} {tag code : Byte} {payload : List Byte}
    (h : s.takes p tag code payload = true) : (s.port p).state = .attached := by
  simp only [State.takes, Bool.and_eq_true, beq_iff_eq] at h
  obtain ⟨⟨⟨⟨_, state⟩, _⟩, _⟩, _⟩ := h
  exact state

theorem takesDetached_detached {s : State} {p : Port} {code : Byte} {payload : List Byte}
    (h : s.takesDetached p code payload = true) : (s.port p).state = .detached := by
  simp only [State.takesDetached, Bool.and_eq_true, beq_iff_eq] at h
  obtain ⟨⟨⟨⟨_, state⟩, _⟩, _⟩, _⟩ := h
  exact state

/-- The row of a request taken from a DETACHED port and answered at once. -/
theorem exec_responds_detached {s t : State} {p : Port} {tag : Byte} {name : RequestName} {payload data : List Byte}
    {result : ResultCode} (h : s.takesDetached p (codeOf name) payload = true)
    (hb : requestBody name p tag payload (s.taken p tag (codeOf name) payload) = (t, some ⟨result, data⟩)) :
    exec (requestRow name p tag payload) s = .next (s.responds p tag (codeOf name) payload result data t) := by
  rw [exec_requestRow, sendRequest_taken_detached h, hb]

/-- The end of a transaction leaves an ATTACHED port its full lease (R139). -/
theorem closes_leaseRemaining {t : State} {p : Port} (attached : (t.port p).state = .attached) (out : List Byte) :
    ((t.closes p out).port p).leaseRemaining = some ((t.port p).leaseInterval.toNat * 100) := by
  simp [State.closes, State.shuts, attached]

/-- An answered frame whose request changes nothing renews the lease of its ATTACHED port (R139). -/
theorem answers_leaseRemaining {s : State} {p : Port} (attached : (s.port p).state = .attached) (tag code : Byte)
    (payload data : List Byte) (result : ResultCode) :
    ((s.answers p tag code payload result data id).port p).leaseRemaining =
      some ((s.port p).leaseInterval.toNat * 100) := by
  unfold State.answers State.responds State.sends
  rw [closes_leaseRemaining] <;> simp [attached]

/-! ### Frames from a LAPSING port (R155) -/

theorem judge_lapsing {r : PortRecord} (lapsing : r.state = .lapsing) (tag code check : Byte) :
    r.judge tag code check = .resetting :=
  if_pos lapsing

theorem engine_lapsing {s : State} {p : Port} (lapsing : (s.port p).state = .lapsing) (tag code check : Byte)
    (body : State → Served) : engine p tag code check body s = recordResult p .resetting s := by
  simp only [engine, judge_lapsing lapsing]

/-- The row of a request sent from a LAPSING port: the frame is rejected RESETTING, which alone is recorded. -/
theorem exec_rejects_lapsing {s : State} {p : Port} {payload : List Byte} (hs : s.serves p = true)
    (lapsing : (s.port p).state = .lapsing) (fits : payload.length ≤ 32) (name : RequestName) (tag : Byte) :
    exec (requestRow name p tag payload) s =
      .next (s.sends p payload (s.modPort p fun r => { r with lastFrame := .resetting })) := by
  have lapsing' : ((s.opened p).port p).state = .lapsing := by simp [State.opened, lapsing]
  rw [exec_requestRow, sendRequest_eq fits, transaction_served hs, engine_lapsing lapsing']
  simp only [recordResult, State.sends, State.closes, State.shuts, State.opened, modPort_modPort]
  congr 1
  exact modPort_congr _ _ _ (by simp [lapsing, statusThen, State.shiftsOut])

/-! ### RENEW (R140) -/

theorem renewRequest_ok (p : Port) (s : State) :
    renewRequest p [] s = okWith [(s.port p).session, (s.port p).leaseInterval] s := rfl

/-- Settles O22: the taking of the frame leaves session and interval as they were, and the renewal is that of every taken frame. -/
theorem renewAnswersSession : Obligations.RenewAnswersSession := by
  intro s p tag h
  refine ⟨?_, answers_leaseRemaining (takes_attached h) ..⟩
  have body := renewRequest_ok p (s.taken p tag 0x12 [])
  rw [taken_port_session, taken_port_interval] at body
  exact exec_answers_ok (name := .renew) (effect := id) h body

/-! ### ATTACH (R135, R136) -/

theorem attachRequest_badState {s : State} {p : Port} (attached : (s.port p).state = .attached) (lease : Byte) :
    attachRequest p [lease] s = (s, some ⟨.badState, [(s.port p).session, (s.port p).leaseInterval]⟩) :=
  if_pos attached

theorem attachRequest_range {s : State} {p : Port} (unattached : (s.port p).state ≠ .attached) :
    attachRequest p [0] s = refuse .range s := by
  simp [attachRequest, unattached]

theorem attachRequest_ok {s : State} {p : Port} {lease : Byte} (unattached : (s.port p).state ≠ .attached)
    (nonzero : lease ≠ 0) :
    attachRequest p [lease] s =
      okWith [byte p.val, (s.port p).session + 1, lease, 4, 64, 4, 16, 3, 4, 16]
        (s.modPort p (PortRecord.attached lease)) := by
  simp only [attachRequest, if_neg unattached, if_neg nonzero]
  simp [attachData, PortRecord.attached]

/-- Settles O20: an ATTACHED port meets the body's first check, a LAPSING port that of the Request Engine. -/
theorem attachOfAttachedPortRefused : Obligations.AttachOfAttachedPortRefused := by
  intro s p tag lease
  refine ⟨fun h => ?_, fun hs lapsing => exec_rejects_lapsing (payload := [lease]) hs lapsing (by simp) .attach tag⟩
  have body : attachRequest p [lease] (s.taken p tag 0x10 [lease]) =
      (s.taken p tag 0x10 [lease], some ⟨.badState, [(s.port p).session, (s.port p).leaseInterval]⟩) := by
    rw [attachRequest_badState (by simp [takes_attached h]), taken_port_session, taken_port_interval]
  exact (exec_requestRow .attach ..).trans (congrArg _ (sendRequest_responds (name := .attach) h body))

/-- The port record that an accepted ATTACH leaves, after its response and the end of its transaction. -/
theorem responds_attached {s : State} {p : Port} {data : List Byte} (tag lease : Byte) :
    s.responds p tag 0x10 [lease] .ok data ((s.taken p tag 0x10 [lease]).modPort p (PortRecord.attached lease)) =
      s.modPort p fun r =>
        { state := .attached, session := r.session + 1, leaseInterval := lease,
          leaseRemaining := some (lease.toNat * 100), window := 1, responses := [⟨tag, 0x10, .ok, data⟩],
          replay := none, notices := [], lost := 0, mask := 0x03E6, lastFrame := .taken, framesTaken := 0,
          frameErrors := 0, noticesLost := 0, bnd := r.bnd, sweep := r.sweep, select := .high,
          shifted := some (s.shiftsOut p 5) } := by
  simp only [State.responds, State.sends, State.closes, State.shuts, State.taken, modPort_modPort]
  exact modPort_congr _ _ _ (by simp [PortRecord.attached, defaultMask])

/-- Settles O19: a DETACHED port passes the body's first check, so the interval decides; the session's record is that of
`responds_attached`. -/
theorem attachOpensSession : Obligations.AttachOpensSession := by
  intro s p tag lease h
  have unattached : ((s.taken p tag 0x10 [lease]).port p).state ≠ .attached := by simp [takesDetached_detached h]
  constructor
  · rintro rfl
    exact exec_responds_detached (name := .attach) h (attachRequest_range unattached)
  · intro nonzero
    have body := attachRequest_ok unattached nonzero
    rw [taken_port_session] at body
    exact (exec_responds_detached (name := .attach) h body).trans (congrArg _ (responds_attached tag lease))

end Sys2Proof.Machine
end

section
/-!
PROOFS. What a step can do, said once: the judgement of a frame by cases, and the kinds of change that a command makes. A property that every
kind of change keeps is kept by every step.
-/

namespace Sys2Proof.Machine

/-! ### The code of a request names it -/

theorem requestOfCode_codeOf (name : RequestName) : requestOfCode (codeOf name) = some name := by
  cases name <;> rfl

theorem codeOf_of_requestOfCode {code : Byte} {name : RequestName} (h : requestOfCode code = some name) : codeOf name = code := by
  simpa using List.find?_some h

/-- A frame with a request's code executes that request. -/
theorem frameBody_codeOf (name : RequestName) (p : Port) (tag : Byte) (payload : List Byte) :
    frameBody p tag (codeOf name) payload = requestBody name p tag payload := by
  unfold frameBody
  rw [requestOfCode_codeOf]

/-! ### Changes that no invariant reads -/

/-- The record `r'` is `r` but for its frame result, two counters, its BND level and its transaction. -/
def PortRecord.Alike (r r' : PortRecord) : Prop :=
  r' = { r with lastFrame := r'.lastFrame, framesTaken := r'.framesTaken, frameErrors := r'.frameErrors, bnd := r'.bnd,
                select := r'.select, shifted := r'.shifted }

theorem PortRecord.Alike.refl (r : PortRecord) : r.Alike r := rfl

/-- The states `s` and `t` hold the same buffers, pools, streams and timers, and port records alike. -/
structure State.Neutral (s t : State) : Prop where
  buffers : t.buffers = s.buffers
  pools : t.pools = s.pools
  streams : t.streams = s.streams
  timers : t.timers = s.timers
  ports : ∀ p, (s.port p).Alike (t.port p)

theorem State.Neutral.modPort (s : State) (p : Port) {f : PortRecord → PortRecord} (h : ∀ r, PortRecord.Alike r (f r)) :
    s.Neutral (s.modPort p f) where
  buffers := rfl
  pools := rfl
  streams := rfl
  timers := rfl
  ports q := by
    rw [modPort_port]
    split
    next hq => subst hq; exact h _
    next => rfl

/-! ### The judgement of a frame -/

/-- A frame that is taken comes from a port that is not LAPSING, with room in its window; from a DETACHED port it is an ATTACH or a
QUERY_DEVICE (R155). -/
theorem judge_eq_taken {r : PortRecord} {tag code check : Byte} (h : r.judge tag code check = .taken) :
    r.state ≠ .lapsing ∧ r.window < 4 ∧ (r.state = .attached ∨ code = codeOf .attach ∨ code = codeOf .queryDevice) := by
  unfold PortRecord.judge at h
  cases hm : r.replayMatch tag code check <;> rw [hm] at h <;> dsimp only at h <;>
    split_ifs at h with lapsing foreign full
  refine ⟨lapsing, Nat.not_le.mp full, ?_⟩
  cases hs : r.state <;> simp_all
  tauto

/-- A frame that is replayed matches the replay record of an ATTACHED port with room in its window (R155, R164). -/
theorem judge_eq_replayed {r : PortRecord} {tag code check : Byte} (h : r.judge tag code check = .replayed) :
    ∃ m c, r.replayMatch tag code check = some m ∧ m.copy = some c ∧ r.state = .attached ∧ r.window < 4 := by
  unfold PortRecord.judge at h
  cases hm : r.replayMatch tag code check with
  | none =>
    rw [hm] at h
    dsimp only at h
    split_ifs at h
  | some m =>
    rw [hm] at h
    dsimp only at h
    split_ifs at h with lapsing foreign waiting full
    obtain ⟨c, hc⟩ := Option.ne_none_iff_exists'.mp (by simpa using waiting)
    refine ⟨m, c, rfl, hc, ?_, Nat.not_le.mp full⟩
    unfold PortRecord.replayMatch at hm
    split at hm
    · split_ifs at hm with attached
      exact attached.1
    · cases hm

/-! ### A property that every kind of change keeps -/

/-- Every kind of change keeps `I`, given that `A` holds before it. -/
structure StepKeeps (A I : State → Prop) : Prop where
  assumed : ∀ {s t : State}, s.Neutral t → A s → A t
  neutral : ∀ {s t : State}, s.Neutral t → I s → I t
  renewed : ∀ {s : State} (p : Port), I s → I (renewLease p s)
  taken : ∀ {s : State} {p : Port} {tag code check : Byte} (payload : List Byte), A s → I s →
    (s.port p).judge tag code check = .taken → I (executeRequest p tag code check (frameBody p tag code payload) s)
  replayed : ∀ {s : State} {p : Port} {tag code check : Byte}, I s → (s.port p).judge tag code check = .replayed →
    I (replayFrame p tag code check s)
  response : ∀ {s : State} (p : Port) (w : Window), I s → I (removeResponse p w s)
  notice : ∀ {s : State} (p : Port) (w : Window), I s → I (removeNotice p w s)
  timer : ∀ {s : State} (i : TimerId), I s → (s.timer i).state = .running →
    I (s.modTimer i fun r => { r with remaining := some r.period.toNat })
  boundary : ∀ {s : State} (st : StreamId) (c : SlotId), A s → I s → I (takeBoundary st c s)
  wait : ∀ {s : State} (st : StreamId) (reply : Reply), A s → I s → I (completeParked st reply s)
  deadline : ∀ {s : State} {st : StreamId} {e : Entry}, A s → I s → e ∈ (s.stream st).list → I (expireEntry st e s)
  sweepBegins : ∀ {s : State} (p : Port) (tag : Option Byte), A s → I s → (s.port p).state = .attached → I (firstStage p tag s)
  streamStep : ∀ {s : State} {p : Port} {st : StreamId}, A s → I s → s.sweepAt p (.stream st) → I (streamStep p st s)
  advance : ∀ {s : State} (p : Port) (next : SweepStep), I s → I (advanceSweep p next s)
  thirdStage : ∀ {s : State} (p : Port), I s → I
    { s with pools := mapBank (fun k => { k with owner := disown p k.owner }) s.pools
             timers := mapBank (fun t => { t with owner := disown p t.owner }) s.timers }
  fourthStage : ∀ {s : State} (p : Port) (tag : Option Byte), A s → I s → (s.port p).state = .lapsing →
    I (s.modPort p fun r => r.swept tag)
  reset : ∀ s : State, I (resetRecords s)
  time : ∀ {s : State}, I s → I (passTime s)

section StepKeeps
variable {A I : State → Prop} (h : StepKeeps A I)
include h

/-- What stands outside the records is not read. -/
theorem StepKeeps.unread {s t : State} (hi : I s) (buffers : t.buffers = s.buffers) (pools : t.pools = s.pools)
    (streams : t.streams = s.streams) (timers : t.timers = s.timers) (ports : t.ports = s.ports) : I t :=
  h.neutral ⟨buffers, pools, streams, timers, fun p => by unfold State.port; rw [ports]; rfl⟩ hi

/-- A transaction keeps what its effect keeps. -/
theorem StepKeeps.transaction {p : Port} {out : Window → List Byte} {effect : Window → State → State}
    (he : ∀ w {s}, A s → I s → I (effect w s)) {s : State} (ha : A s) (hi : I s) : I (transaction p out effect s) := by
  have opened : s.Neutral (openWindow p s) := by
    unfold openWindow
    split
    · exact State.Neutral.modPort s p fun _ => rfl
    · exact ⟨rfl, rfl, rfl, rfl, fun _ => rfl⟩
  unfold Machine.transaction
  dsimp only
  split
  · exact h.neutral (State.Neutral.modPort _ p fun _ => rfl) (he _ (h.assumed opened ha) (h.neutral opened hi))
  · exact h.neutral (State.Neutral.modPort _ p fun _ => rfl) (h.neutral opened hi)

theorem StepKeeps.linkError {s : State} (p : Port) (result : FrameResult) (hi : I s) : I (linkError p result s) :=
  h.neutral (State.Neutral.modPort s p fun _ => rfl) hi

theorem StepKeeps.engine {s : State} (p : Port) (tag code check : Byte) (payload : List Byte) (ha : A s) (hi : I s) :
    I (engine p tag code check (frameBody p tag code payload) s) := by
  have recorded (result : FrameResult) : I (recordResult p result s) := h.neutral (State.Neutral.modPort s p fun _ => rfl) hi
  unfold Machine.engine
  split
  next hj => exact h.renewed p (h.taken payload ha hi hj)
  next hj => exact h.renewed p (h.replayed hi hj)
  · exact h.renewed p (recorded _)
  · exact h.renewed p (recorded _)
  · exact recorded _

theorem StepKeeps.sendRequest {s : State} (p : Port) (tag : Byte) (name : RequestName) (payload : List Byte) (ha : A s) (hi : I s) :
    I (sendRequest p tag name payload (requestBody name p tag payload) s) := by
  refine h.transaction (fun _ t ha hi => ?_) ha hi
  rw [← frameBody_codeOf]
  split
  · exact h.linkError p _ hi
  · exact h.engine p tag _ _ payload ha hi

theorem StepKeeps.sendWindow {s : State} (p : Port) (bytes : List Byte) (ha : A s) (hi : I s) : I (sendWindow p bytes s) := by
  refine h.transaction (fun _ t ha hi => ?_) ha hi
  unfold applyJudged
  split
  · exact h.linkError p _ hi
  · exact h.linkError p _ hi
  · exact h.linkError p _ hi
  · exact h.engine p _ _ _ _ ha hi

theorem StepKeeps.statusWindow {s : State} (p : Port) (n : Nat) (ha : A s) (hi : I s) : I (statusWindow p n s) :=
  h.transaction (fun _ _ _ hi => h.renewed p hi) ha hi

theorem StepKeeps.fetchResponseWindow {s : State} (p : Port) (n : Nat) (ha : A s) (hi : I s) : I (fetchResponseWindow p n s) := by
  refine h.transaction (fun w t _ hi => ?_) ha hi
  split
  · exact hi
  · exact h.renewed p (h.response p w hi)

theorem StepKeeps.fetchNoticeWindow {s : State} (p : Port) (n : Nat) (ha : A s) (hi : I s) : I (fetchNoticeWindow p n s) := by
  refine h.transaction (fun w t _ hi => ?_) ha hi
  split
  · exact hi
  · exact h.renewed p (h.notice p w hi)

theorem StepKeeps.byteWindow {s : State} (p : Port) (first : Byte) (more : List Byte) (ha : A s) (hi : I s) :
    I (byteWindow p first more s) := by
  unfold Machine.byteWindow
  split
  · exact h.statusWindow p _ ha hi
  · exact h.sendWindow p _ ha hi
  · exact h.fetchResponseWindow p _ ha hi
  · exact h.fetchNoticeWindow p _ ha hi
  · exact h.transaction (fun _ _ _ hi => h.linkError p _ hi) ha hi

/-- The rows of the boundary sources: boundaries are addressed, which no invariant reads, and a timer is reloaded. -/
theorem StepKeeps.address {s : State} (fits : Slot → Bool) (hi : I s) : I (address fits s) :=
  h.unread hi rfl rfl rfl rfl rfl

theorem StepKeeps.endReset {s : State} (hi : I s) : I (endReset s) := by
  unfold Machine.endReset
  split
  · refine h.neutral (s := s) ⟨rfl, rfl, rfl, rfl, fun p => ?_⟩ hi
    simp [State.port, get_mapBank, PortRecord.Alike]
  · exact hi

/-- Every row of a request is the SEND window of its request. -/
theorem StepKeeps.requestRow {s t : State} (name : RequestName) (p : Port) (tag : Byte) (payload : List Byte) (ha : A s) (hi : I s)
    (ht : exec (requestRow name p tag payload) s = .next t) : I t := by
  rw [exec_requestRow] at ht
  obtain rfl := Host.Outcome.next.inj ht
  exact h.sendRequest p tag name payload ha hi

theorem StepKeeps.exec {s t : State} {c : Instr} (ha : A s) (hi : I s) (ht : exec c s = .next t) : I t := by
  cases c
  case attach p tag payload => exact h.requestRow .attach p tag payload ha hi ht
  case detach p tag payload => exact h.requestRow .detach p tag payload ha hi ht
  case renew p tag payload => exact h.requestRow .renew p tag payload ha hi ht
  case setNoticeMask p tag payload => exact h.requestRow .setNoticeMask p tag payload ha hi ht
  case createPool p tag payload => exact h.requestRow .createPool p tag payload ha hi ht
  case dissolvePool p tag payload => exact h.requestRow .dissolvePool p tag payload ha hi ht
  case claimPool p tag payload => exact h.requestRow .claimPool p tag payload ha hi ht
  case registerBuffer p tag payload => exact h.requestRow .registerBuffer p tag payload ha hi ht
  case retireBuffer p tag payload => exact h.requestRow .retireBuffer p tag payload ha hi ht
  case openStream p tag payload => exact h.requestRow .openStream p tag payload ha hi ht
  case configureStream p tag payload => exact h.requestRow .configureStream p tag payload ha hi ht
  case closeStream p tag payload => exact h.requestRow .closeStream p tag payload ha hi ht
  case claimStream p tag payload => exact h.requestRow .claimStream p tag payload ha hi ht
  case joinProducer p tag payload => exact h.requestRow .joinProducer p tag payload ha hi ht
  case leave p tag payload => exact h.requestRow .leave p tag payload ha hi ht
  case acquire p tag payload => exact h.requestRow .acquire p tag payload ha hi ht
  case abandon p tag payload => exact h.requestRow .abandon p tag payload ha hi ht
  case publish p tag payload => exact h.requestRow .publish p tag payload ha hi ht
  case signal p tag payload => exact h.requestRow .signal p tag payload ha hi ht
  case joinConsumer p tag payload => exact h.requestRow .joinConsumer p tag payload ha hi ht
  case retuneConsumer p tag payload => exact h.requestRow .retuneConsumer p tag payload ha hi ht
  case ackStall p tag payload => exact h.requestRow .ackStall p tag payload ha hi ht
  case startTimer p tag payload => exact h.requestRow .startTimer p tag payload ha hi ht
  case stopTimer p tag payload => exact h.requestRow .stopTimer p tag payload ha hi ht
  case claimTimer p tag payload => exact h.requestRow .claimTimer p tag payload ha hi ht
  case queryDevice p tag payload => exact h.requestRow .queryDevice p tag payload ha hi ht
  case queryPort p tag payload => exact h.requestRow .queryPort p tag payload ha hi ht
  case queryPool p tag payload => exact h.requestRow .queryPool p tag payload ha hi ht
  case queryStream p tag payload => exact h.requestRow .queryStream p tag payload ha hi ht
  case queryBuffer p tag payload => exact h.requestRow .queryBuffer p tag payload ha hi ht
  all_goals obtain rfl := Host.Outcome.next.inj ht
  case send p bytes => exact h.sendWindow p bytes ha hi
  case status p n => exact h.statusWindow p n ha hi
  case fetchResponse p n => exact h.fetchResponseWindow p n ha hi
  case fetchNotice p n => exact h.fetchNoticeWindow p n ha hi
  case badTransaction p first more => exact h.byteWindow p first more ha hi
  case qualifiedRisingEdge p =>
    split
    · exact h.address _ (h.neutral (State.Neutral.modPort s p fun _ => rfl) hi)
    · exact hi
  case qualifiedFall p =>
    split
    · exact h.neutral (State.Neutral.modPort s p fun _ => rfl) hi
    · exact hi
  case timerExpiry i =>
    split
    next due => exact h.timer i (h.address _ hi) due.1
    next => exact hi
  case boundary st c =>
    split
    · have taken : s.Neutral { s with addressed := s.addressed.erase (st, c) } := ⟨rfl, rfl, rfl, rfl, fun _ => rfl⟩
      exact h.boundary st c (h.assumed taken ha) (h.neutral taken hi)
    · exact hi
  case acquireWaitExpiry st =>
    split
    · exact h.wait st _ ha hi
    · exact hi
  case signalExpiry st b =>
    split
    next e he =>
      split
      · exact h.deadline ha hi (List.mem_of_find?_eq_some he)
      · exact hi
    next => exact hi
  case leaseExpiry p =>
    split
    next due => exact h.sweepBegins p none ha hi due.1
    next => exact hi
  case streamStep p st =>
    split
    next due => exact h.advance p _ (h.streamStep ha hi due)
    next => exact hi
  case sweepThirdStage p =>
    split
    · exact h.advance p _ (h.thirdStage p hi)
    · exact hi
  case sweepFourthStage p =>
    split
    next due =>
      have := h.fourthStage p ((s.port p).sweep.bind Sweep.detachTag) ha hi due.1
      rwa [modPort_congr s p _ (g := fun r => r.swept (r.sweep.bind Sweep.detachTag)) rfl] at this
    next => exact hi
  case deviceReset cause =>
    cases cause
    · exact h.unread (h.reset s) rfl rfl rfl rfl rfl
    · exact h.unread (h.reset s) rfl rfl rfl rfl rfl
  case resetRelease => exact h.endReset (h.unread hi rfl rfl rfl rfl rfl)
  case powerUpEnd => exact h.endReset (h.unread hi rfl rfl rfl rfl rfl)
  case recoveryEnd =>
    split
    · exact h.unread hi rfl rfl rfl rfl rfl
    · exact hi
  case fallOfSelect p tooSoon => exact h.neutral (State.Neutral.modPort s p fun _ => rfl) hi

theorem StepKeeps.idle {s : State} (hi : I s) : I (idle s) := by
  unfold Machine.idle
  split
  · exact hi
  · exact h.unread hi rfl rfl rfl rfl rfl
  · split
    · exact h.unread hi rfl rfl rfl rfl rfl
    · exact h.unread (h.time hi) rfl rfl rfl rfl rfl

/-- A property that every kind of change keeps is kept by every step. -/
theorem StepKeeps.step {s t : State} (ha : A s) (hi : I s) (ht : step s = .next t) : I t := by
  unfold Machine.step at ht
  split at ht
  next c rest _ =>
    have taken : s.Neutral { s with pending := rest } := ⟨rfl, rfl, rfl, rfl, fun _ => rfl⟩
    exact h.exec (h.assumed taken ha) (h.neutral taken hi) ht
  next =>
    obtain rfl := Host.Outcome.next.inj ht
    exact h.idle hi

end StepKeeps

end Sys2Proof.Machine
end

section
/-!
PROOFS. What each request can do, said once: it leaves the state as it is and answers, or its checks have passed and it has its effect.
-/

namespace Sys2Proof.Machine

/-- The request answers and changes nothing. -/
def Served.Leaves (q : Served) (s : State) : Prop := ∃ reply, q = (s, some reply)

theorem leaves_refuse (r : ResultCode) (s : State) : Served.Leaves (refuse r s) s := ⟨_, rfl⟩
theorem leaves_okWith (data : List Byte) (s : State) : Served.Leaves (okWith data s) s := ⟨_, rfl⟩
theorem leaves_answer (reply : Reply) (s : State) : Served.Leaves (s, some reply) s := ⟨_, rfl⟩

@[simp] theorem okWith_fst (data : List Byte) (s : State) : (okWith data s).1 = s := rfl
@[simp] theorem refuse_fst (r : ResultCode) (s : State) : (refuse r s).1 = s := rfl

section requests
variable (p : Port) (tag : Byte) (payload : List Byte) (s : State)

theorem attachRequest_cases : (attachRequest p payload s).Leaves s ∨ ∃ lease data,
    (s.port p).state ≠ .attached ∧ lease ≠ 0 ∧
      attachRequest p payload s = okWith data (s.modPort p (PortRecord.attached lease)) := by
  unfold attachRequest
  repeat' split
  all_goals try with_reducible
    first | exact .inl (leaves_refuse ..) | exact .inl (leaves_okWith ..) | exact .inl (leaves_answer ..)
  rename_i lease unattached nonzero
  exact .inr ⟨lease, _, unattached, nonzero, rfl⟩

theorem detachRequest_cases : (detachRequest p tag payload s).Leaves s ∨
    detachRequest p tag payload s = (firstStage p (some tag) s, none) := by
  unfold detachRequest
  split
  · exact .inr rfl
  · exact .inl ⟨_, rfl⟩

theorem renewRequest_cases : (renewRequest p payload s).Leaves s := by
  unfold renewRequest
  split <;> exact ⟨_, rfl⟩

theorem setNoticeMaskRequest_cases : (setNoticeMaskRequest p payload s).Leaves s ∨ ∃ mask data,
    mask &&& ~~~maskableKinds = 0 ∧
      setNoticeMaskRequest p payload s = okWith data (s.modPort p fun r => { r with mask := mask }) := by
  unfold setNoticeMaskRequest
  repeat' split
  all_goals try with_reducible
    first | exact .inl (leaves_refuse ..) | exact .inl (leaves_okWith ..) | exact .inl (leaves_answer ..)
  rename_i maskable
  exact .inr ⟨_, _, not_not.mp maskable, rfl⟩

theorem createPoolRequest_cases : (createPoolRequest p payload s).Leaves s ∨ ∃ k data,
    (s.pool k).state = .unused ∧ createPoolRequest p payload s = okWith data
      (s.modPool k fun _ => { state := .active, owner := some p, free := [], registered := 0, wait := [] }) := by
  unfold createPoolRequest
  repeat' split
  all_goals try with_reducible
    first | exact .inl (leaves_refuse ..) | exact .inl (leaves_okWith ..) | exact .inl (leaves_answer ..)
  rename_i k found
  exact .inr ⟨k, _, by simpa using List.find?_some found, rfl⟩

theorem dissolvePoolRequest_cases : (dissolvePoolRequest p payload s).Leaves s ∨ ∃ k,
    s.poolNamed k = false ∧ dissolvePoolRequest p payload s = okWith []
      ((unregisterAll (s.pool k).free s).modPool k
        fun q => { q with state := .unused, owner := none, free := [], registered := 0 }) := by
  unfold dissolvePoolRequest
  repeat' split
  all_goals try with_reducible
    first | exact .inl (leaves_refuse ..) | exact .inl (leaves_okWith ..) | exact .inl (leaves_answer ..)
  rename_i k _ _ _ unnamed
  exact .inr ⟨k, by simpa using unnamed, rfl⟩

theorem claimPoolRequest_cases : (claimPoolRequest p payload s).Leaves s ∨ ∃ k,
    claimPoolRequest p payload s = okWith [] (s.modPool k fun q => { q with owner := some p }) := by
  unfold claimPoolRequest
  repeat' split
  all_goals try with_reducible
    first | exact .inl (leaves_refuse ..) | exact .inl (leaves_okWith ..) | exact .inl (leaves_answer ..)
  exact .inr ⟨_, rfl⟩

theorem registerBufferRequest_cases : (registerBufferRequest p payload s).Leaves s ∨ ∃ k b handle layout data,
    (s.pool k).state ≠ .unused ∧ (s.buffer b).state = .vacant ∧ registerBufferRequest p payload s = okWith data
      (runArbiter k ((s.modBuffer b fun r =>
        { r with state := .free, pool := some k, handle := handle, layout := layout, stream := none, holds := 0,
                 retiring := false }).modPool k fun q => { q with free := q.free ++ [b], registered := q.registered + 1 })) := by
  unfold registerBufferRequest
  repeat' split
  all_goals try with_reducible
    first | exact .inl (leaves_refuse ..) | exact .inl (leaves_okWith ..) | exact .inl (leaves_answer ..)
  rename_i k _ active _ _ b found
  exact .inr ⟨k, b, _, _, _, active, by simpa using List.find?_some found, rfl⟩

theorem retireBufferRequest_cases : (retireBufferRequest p payload s).Leaves s ∨ ∃ b, (s.buffer b).state ≠ .vacant ∧
    ((s.buffer b).state = .free ∧ retireBufferRequest p payload s = okWith [0] (retireFree b s) ∨
      (s.buffer b).state ≠ .free ∧
        retireBufferRequest p payload s = okWith [1] (s.modBuffer b fun r => { r with retiring := true })) := by
  unfold retireBufferRequest
  repeat' split
  all_goals try with_reducible
    first | exact .inl (leaves_refuse ..) | exact .inl (leaves_okWith ..) | exact .inl (leaves_answer ..)
  next b _ used _ _ free => exact .inr ⟨b, used, .inl ⟨free, rfl⟩⟩
  next b _ used _ _ unfree => exact .inr ⟨b, used, .inr ⟨unfree, rfl⟩⟩

theorem openStreamRequest_cases : (openStreamRequest p payload s).Leaves s ∨ ∃ c st data,
    openItems? payload = some c ∧ c.inRange Stream.cleared.quota Stream.cleared.reserve = true ∧ poolMissing c s = false ∧
      (s.stream st).state = .closed ∧
      openStreamRequest p payload s = okWith data (s.modStream st fun _ => openedStream p c) := by
  unfold openStreamRequest
  repeat' split
  all_goals try with_reducible
    first | exact .inl (leaves_refuse ..) | exact .inl (leaves_okWith ..) | exact .inl (leaves_answer ..)
  rename_i c items inRange present _ st found
  exact .inr ⟨c, st, _, items, by simpa using inRange, by simpa using present, by simpa using List.find?_some found, rfl⟩

theorem configureStreamRequest_cases : (configureStreamRequest p payload s).Leaves s ∨ ∃ st c,
    (s.stream st).state ≠ .closed ∧ configureRefusal p st c s = none ∧
      configureStreamRequest p payload s = okWith [] (configure st c s) := by
  unfold configureStreamRequest
  repeat' split
  all_goals try with_reducible
    first | exact .inl (leaves_refuse ..) | exact .inl (leaves_okWith ..) | exact .inl (leaves_answer ..)
  rename_i c _ _ st _ opened _ passed
  exact .inr ⟨st, c, opened, passed, rfl⟩

theorem closeStreamRequest_cases : (closeStreamRequest p payload s).Leaves s ∨ ∃ st data,
    (s.stream st).state ≠ .closed ∧ (s.stream st).state ≠ .draining ∧
      closeStreamRequest p payload s = okWith data (drainTest st (closeStream st s)) := by
  unfold closeStreamRequest
  split
  · split
    · exact .inl (leaves_refuse ..)
    next st _ =>
      split_ifs with closed foreign draining
      · exact .inl (leaves_refuse ..)
      · exact .inl (leaves_refuse ..)
      · exact .inl (leaves_okWith ..)
      · exact .inr ⟨st, _, closed, draining, rfl⟩
  · exact .inl (leaves_refuse ..)

theorem claimStreamRequest_cases : (claimStreamRequest p payload s).Leaves s ∨ ∃ st, (s.stream st).state ≠ .closed ∧
    claimStreamRequest p payload s = okWith [] (s.modStream st fun y => { y with owner := some p }) := by
  unfold claimStreamRequest
  dsimp only
  repeat' split
  all_goals try with_reducible
    first | exact .inl (leaves_refuse ..) | exact .inl (leaves_okWith ..) | exact .inl (leaves_answer ..)
  rename_i st _ opened _ _ _
  exact .inr ⟨st, opened, rfl⟩

theorem joinProducerRequest_cases : (joinProducerRequest p payload s).Leaves s ∨ ∃ st data,
    (s.stream st).state ≠ .closed ∧ (s.stream st).state ≠ .draining ∧ (s.stream st).producer = none ∧
      (s.stream st).slotOf p = none ∧ joinProducerRequest p payload s = okWith data
        (s.modStream st fun y => { y with producer := some p, state := .live }) := by
  unfold joinProducerRequest
  dsimp only
  repeat' split
  all_goals try with_reducible
    first | exact .inl (leaves_refuse ..) | exact .inl (leaves_okWith ..) | exact .inl (leaves_answer ..)
  rename_i st _ opened running _ unproduced slotless
  exact .inr ⟨st, _, opened, running, by simpa using unproduced, by simpa using slotless, rfl⟩

theorem leaveRequest_cases : (leaveRequest p payload s).Leaves s ∨ ∃ st, (s.stream st).state ≠ .closed ∧
    ((s.stream st).producer = some p ∧ leaveRequest p payload s = okWith [] (producerLeave st s) ∨
      ∃ c, (s.stream st).slotOf p = some c ∧ leaveRequest p payload s = okWith [] (consumerLeave st c s)) := by
  unfold leaveRequest
  split
  · split
    · exact .inl (leaves_refuse ..)
    next st _ =>
      split_ifs with closed own
      · exact .inl (leaves_refuse ..)
      · exact .inr ⟨st, closed, .inl ⟨own, rfl⟩⟩
      · split
        next c slot => exact .inr ⟨st, closed, .inr ⟨c, slot, rfl⟩⟩
        next => exact .inl (leaves_refuse ..)
  · exact .inl (leaves_refuse ..)

theorem acquireRequest_cases : (acquireRequest p tag payload s).Leaves s ∨ ∃ st,
    (s.stream st).state ≠ .closed ∧ (s.stream st).state ≠ .draining ∧ (s.stream st).producer = some p ∧
      (s.stream st).parked = none ∧
      ((∃ b rest data, (s.pool (s.stream st).pool).free = b :: rest ∧
          acquireRequest p tag payload s = okWith data (grant (s.stream st).pool st b s)) ∨
        ∃ wait, acquireRequest p tag payload s = (park p tag st wait s, none)) := by
  unfold acquireRequest
  dsimp only
  repeat' split
  all_goals try with_reducible
    first | exact .inl (leaves_refuse ..) | exact .inl (leaves_okWith ..) | exact .inl (leaves_answer ..)
  next st _ opened running own _ _ unparked _ b rest free =>
    exact .inr ⟨st, opened, running, not_not.mp own, unparked, .inl ⟨b, rest, _, free, rfl⟩⟩
  next st _ opened running own _ _ unparked _ _ _ =>
    exact .inr ⟨st, opened, running, not_not.mp own, unparked, .inr ⟨_, rfl⟩⟩

theorem abandonRequest_cases : (abandonRequest p payload s).Leaves s ∨ ∃ b st, (s.buffer b).state = .filling ∧
    (s.buffer b).stream = some st ∧ (s.stream st).producer = some p ∧
      abandonRequest p payload s = okWith [] (drainTest st (release b s)) := by
  unfold abandonRequest
  repeat' split
  all_goals try with_reducible
    first | exact .inl (leaves_refuse ..) | exact .inl (leaves_okWith ..) | exact .inl (leaves_answer ..)
  rename_i b _ _ filling _ st bound own
  exact .inr ⟨b, st, not_not.mp filling, bound, not_not.mp own, rfl⟩

theorem publishRequest_cases : (publishRequest p payload s).Leaves s ∨ ∃ b st, (s.buffer b).state = .filling ∧
    (s.buffer b).stream = some st ∧ (s.stream st).producer = some p ∧
      (publishRequest p payload s = refuse .closed (drainTest st (release b s)) ∨
        (s.stream st).state ≠ .draining ∧ ∃ signalled t data, publishInto st b signalled s = some t ∧
          publishRequest p payload s = okWith data t) := by
  unfold publishRequest
  repeat' split
  all_goals try with_reducible
    first | exact .inl (leaves_refuse ..) | exact .inl (leaves_okWith ..) | exact .inl (leaves_answer ..)
  next b _ _ _ _ filling _ st bound own _ =>
    exact .inr ⟨b, st, not_not.mp filling, bound, not_not.mp own, .inl rfl⟩
  next b signalled _ _ _ filling _ st bound own running _ t into =>
    exact .inr ⟨b, st, not_not.mp filling, bound, not_not.mp own, .inr ⟨running, signalled, t, _, into, rfl⟩⟩

theorem signalRequest_cases : (signalRequest p payload s).Leaves s ∨ ∃ b st e data, (s.buffer b).state = .published ∧
    (s.buffer b).stream = some st ∧ entryOf (s.stream st).list b = some e ∧ e.signalled = false ∧
      signalRequest p payload s =
        okWith data (settle st (s.modStream st fun x => { x with list := markSignalled b x.list })) := by
  unfold signalRequest
  repeat' split
  all_goals try with_reducible
    first | exact .inl (leaves_refuse ..) | exact .inl (leaves_okWith ..) | exact .inl (leaves_answer ..)
  rename_i b _ _ published _ st bound _ _ e entry unsignalled
  exact .inr ⟨b, st, e, _, not_not.mp published, bound, entry, by simpa using unsignalled, rfl⟩

theorem joinConsumerRequest_cases : (joinConsumerRequest p payload s).Leaves s ∨ ∃ st c source threshold data,
    (s.stream st).state ≠ .closed ∧ (s.stream st).isMember p = false ∧ (s.stream st).freeSlot = some c ∧
      joinConsumerRequest p payload s = okWith data
        (s.modStream st fun y => y.modSlot c fun _ => joinedSlot p source threshold) := by
  unfold joinConsumerRequest
  dsimp only
  repeat' split
  all_goals try with_reducible
    first | exact .inl (leaves_refuse ..) | exact .inl (leaves_okWith ..) | exact .inl (leaves_answer ..)
  rename_i st _ opened _ source _ _ _ foreign _ c free
  exact .inr ⟨st, c, source, _, _, opened, by simpa using foreign, free, rfl⟩

theorem retuneConsumerRequest_cases : (retuneConsumerRequest p payload s).Leaves s ∨ ∃ st c source threshold,
    (s.stream st).state ≠ .closed ∧ retuneConsumerRequest p payload s = okWith [] (retune st c source threshold s) := by
  unfold retuneConsumerRequest
  repeat' split
  all_goals try with_reducible
    first | exact .inl (leaves_refuse ..) | exact .inl (leaves_okWith ..) | exact .inl (leaves_answer ..)
  rename_i st _ opened _ source _ _ c _
  exact .inr ⟨st, c, source, _, opened, rfl⟩

theorem ackStallRequest_cases : (ackStallRequest p payload s).Leaves s ∨ ∃ st c data,
    (s.stream st).state ≠ .closed ∧ ackStallRequest p payload s = okWith data
      (s.modStream st fun x => x.modSlot c fun j => { j with stalled := false }) := by
  unfold ackStallRequest
  repeat' split
  all_goals try with_reducible
    first | exact .inl (leaves_refuse ..) | exact .inl (leaves_okWith ..) | exact .inl (leaves_answer ..)
  rename_i st _ opened _ c _
  exact .inr ⟨st, c, _, opened, rfl⟩

theorem startTimerRequest_cases : (startTimerRequest p payload s).Leaves s ∨ ∃ i period, period ≠ 0 ∧
    startTimerRequest p payload s = okWith [] (s.modTimer i fun _ =>
      { state := .running, owner := some p, period := period, remaining := some period.toNat }) := by
  unfold startTimerRequest
  repeat' split
  all_goals try with_reducible
    first | exact .inl (leaves_refuse ..) | exact .inl (leaves_okWith ..) | exact .inl (leaves_answer ..)
  rename_i i _ nonzero _
  exact .inr ⟨i, _, nonzero, rfl⟩

theorem stopTimerRequest_cases : (stopTimerRequest p payload s).Leaves s ∨ ∃ i,
    stopTimerRequest p payload s = okWith [] (s.modTimer i fun r => { r with state := .stopped, remaining := none }) := by
  unfold stopTimerRequest
  repeat' split
  all_goals try with_reducible
    first | exact .inl (leaves_refuse ..) | exact .inl (leaves_okWith ..) | exact .inl (leaves_answer ..)
  exact .inr ⟨_, rfl⟩

theorem claimTimerRequest_cases : (claimTimerRequest p payload s).Leaves s ∨ ∃ i,
    claimTimerRequest p payload s = okWith [] (s.modTimer i fun r => { r with owner := some p }) := by
  unfold claimTimerRequest
  repeat' split
  all_goals try with_reducible
    first | exact .inl (leaves_refuse ..) | exact .inl (leaves_okWith ..) | exact .inl (leaves_answer ..)
  exact .inr ⟨_, rfl⟩

/-- A query draws at most a free value. -/
theorem queryDeviceRequest_cases : (queryDeviceRequest p payload s).Leaves s ∨ ∃ data,
    queryDeviceRequest p payload s = okWith data (chosen s) := by
  unfold queryDeviceRequest
  split
  · exact .inr ⟨_, rfl⟩
  · exact .inl ⟨_, rfl⟩

theorem queryPortRequest_cases : (queryPortRequest payload s).Leaves s := by
  unfold queryPortRequest
  repeat' split
  all_goals exact ⟨_, rfl⟩

theorem queryPoolRequest_cases : (queryPoolRequest payload s).Leaves s := by
  unfold queryPoolRequest queryPool
  repeat' split
  all_goals exact ⟨_, rfl⟩

theorem queryStreamRequest_cases : (queryStreamRequest payload s).Leaves s ∨ ∃ data,
    queryStreamRequest payload s = okWith data (chosen s) := by
  unfold queryStreamRequest queryStream
  repeat' split
  all_goals try with_reducible
    first | exact .inl (leaves_refuse ..) | exact .inl (leaves_okWith ..) | exact .inl (leaves_answer ..)
  all_goals exact .inr ⟨_, rfl⟩

theorem queryBufferRequest_cases : (queryBufferRequest payload s).Leaves s := by
  unfold queryBufferRequest
  repeat' split
  all_goals exact ⟨_, rfl⟩

end requests

end Sys2Proof.Machine
end

section
/-!
PROOFS. The port records stay sound (O57). Every operation on streams, pools and buffers lets the port records receive notices and responses
and does nothing else to them; the link and the sessions change one port record at a time.
-/

namespace Sys2Proof.Machine

/-! ### What the operations on streams do to the port records -/

/-- Every port record of `t` is that of `s` with notices disposed of and responses added. -/
def State.Carry (s t : State) : Prop := ∀ p, (s.port p).Carries (t.port p)

theorem State.Carry.refl (s : State) : s.Carry s := fun _ => .refl _

theorem State.Carry.trans {s t u : State} (h : s.Carry t) (g : t.Carry u) : s.Carry u := fun p => (h p).trans (g p)

theorem State.Carry.portsSound {s t : State} (h : s.Carry t) (hs : PortsSound s) : PortsSound t := fun p => (h p).sound (hs p)

theorem State.Follows.carry {s t : State} (h : s.Follows t) : s.Carry t := h.ports

/-- A change of a stream record is none of a port record. -/
theorem State.Carry.modStream {s t : State} (h : s.Carry t) (st : StreamId) (f : Stream → Stream) : s.Carry (t.modStream st f) := h

section carry
variable (st : StreamId) (c : SlotId) (p : Port) (s : State)

theorem carry_removeEntries (bs : List BufferId) : s.Carry (removeEntries st bs s) := (follows_removeEntries st bs s).carry
theorem carry_settle : s.Carry (settle st s) := (follows_settle st s).carry
theorem carry_removeUnsignalled : s.Carry (removeUnsignalled st s) := (follows_removeUnsignalled st s).carry
theorem carry_clearSlot : s.Carry (clearSlot st c s) := (follows_clearSlot st c s).carry
theorem carry_drainTest : s.Carry (drainTest st s) := by
  obtain h | ⟨_, n, h⟩ := drainTest_cases st s
  · rw [h]; exact .refl s
  · rw [h]; exact (follows_queueNoticeTo _ n s).carry

theorem carry_configure (items : ConfigItems) : s.Carry (configure st items s) := by
  have cancelled : s.Carry (if items.poolOf (s.stream st).pool ≠ (s.stream st).pool then cancelParked st s else s) := by
    split
    · exact (follows_cancelParked st s).carry
    · exact .refl s
  unfold configure
  extract_lets x a b y
  split_ifs
  · exact (cancelled.modStream st items.apply).trans (follows_runArbiter _ _).carry
  · exact cancelled.modStream st items.apply

theorem carry_closeStream : s.Carry (closeStream st s) :=
  State.Carry.trans (State.Carry.trans (s := s) (follows_cancelParked st (s.modStream st _)).carry (carry_removeEntries st _ _))
    (follows_queueNotices _ _ _).carry

theorem carry_producerLeave : s.Carry (producerLeave st s) := by
  have released : s.Carry (releaseFillings st ((cancelParked st s).modStream st fun x => { x with producer := none })) :=
    ((follows_cancelParked st s).carry.modStream st _).trans (follows_releaseFillings st _).carry
  unfold producerLeave
  refine State.Carry.trans (State.Carry.modStream (State.Carry.trans ?_ (carry_settle st _)) st _) (carry_drainTest st _)
  split
  · exact released.trans (carry_removeUnsignalled st _)
  · exact released

theorem carry_consumerLeave : s.Carry (consumerLeave st c s) :=
  ((carry_clearSlot st c s).trans (carry_settle st _)).trans (carry_drainTest st _)

theorem carry_append (b : BufferId) (signalled : Bool) : s.Carry (append st b signalled s) :=
  carry_settle st ((s.modStream st _).modBuffer b _)

theorem carry_dropEntry (e : Entry) : s.Carry (dropEntry st e s) := by
  unfold dropEntry
  dsimp only
  refine State.Carry.trans ?_ (follows_unlist _ _).carry
  split
  · exact .refl s
  · exact (follows_queueNoticeTo _ _ (s.modStream st _)).carry

theorem publishInto_cases {b : BufferId} {signalled : Bool} {t : State} (h : publishInto st b signalled s = some t) :
    (s.stream st).full = false ∧ t = append st b signalled s ∨
      ∃ e, oldestSignalled (s.stream st).list = some e ∧ t = append st b signalled (dropEntry st e s) := by
  unfold publishInto at h
  dsimp only at h
  split_ifs at h with full
  · split at h
    next e _ oldest => exact .inr ⟨e, oldest, (Option.some.inj h).symm⟩
    next => cases h
  · exact .inl ⟨by simpa using full, (Option.some.inj h).symm⟩

theorem carry_publishInto {b : BufferId} {signalled : Bool} {t : State} (h : publishInto st b signalled s = some t) : s.Carry t := by
  obtain ⟨_, rfl⟩ | ⟨e, _, rfl⟩ := publishInto_cases st s h
  · exact carry_append st s b signalled
  · exact (carry_dropEntry st s e).trans (carry_append st _ b signalled)

theorem carry_expireEntry (e : Entry) : s.Carry (expireEntry st e s) := by
  have noticed (n : Notice) (t : State) : t.Carry (noticeExpired st n t) := by
    unfold noticeExpired
    dsimp only
    split
    · exact (follows_queueNoticeTo _ n t).carry
    · exact ((follows_queueNoticeTo _ n t).trans (follows_queueNoticeTo _ n _)).carry
  exact State.Carry.trans (State.Carry.trans (s := s) (noticed _ (s.modStream st _)) (follows_unlist _ _).carry) (carry_settle st _)

theorem carry_flip (e : Entry) : s.Carry (flip st c e s) :=
  State.Carry.trans (State.Carry.trans (State.Carry.modStream (State.Carry.trans (s := s)
    (follows_addHold e.buffer (s.modStream st _)).carry (follows_dropOld _ _).carry) st _) (follows_queueNoticeTo _ _ _).carry)
    (carry_settle st _)

theorem carry_repeatFrame (b : BufferId) : s.Carry (repeatFrame st c b s) := by
  unfold repeatFrame
  dsimp only
  split
  · exact (follows_queueNoticeTo _ _ ((s.modStream st _).modStream st _)).carry
  · exact .refl s

theorem carry_takeBoundary : s.Carry (takeBoundary st c s) := by
  unfold takeBoundary
  dsimp only
  repeat' split
  all_goals first | exact carry_flip st c s _ | exact carry_repeatFrame st c s _ | exact .refl s

theorem carry_noticeMemberLost (role : LostRole) : s.Carry (noticeMemberLost p st role s) := by
  unfold noticeMemberLost
  dsimp only
  repeat' split
  · exact (follows_queueNotices _ _ s).carry
  · exact ((follows_queueNotices _ _ s).trans (follows_queueNotice _ _ _)).carry
  · exact (follows_queueNotices _ _ s).carry

theorem carry_ownerPart : s.Carry (ownerPart p st s) := (follows_queueNotices _ _ (s.modStream st _)).carry

theorem carry_producerPart : s.Carry (producerPart p st s) := by
  have released : s.Carry (releaseFillings st (s.modStream st fun x => { x with producer := none })) :=
    (follows_releaseFillings st (s.modStream st _)).carry
  unfold producerPart
  refine State.Carry.modStream ?_ st _
  split
  · exact released.trans (carry_removeUnsignalled st _)
  · exact released

theorem carry_roleParts : s.Carry (roleParts p st s) := by
  unfold roleParts
  dsimp only
  split
  · exact ((carry_producerPart st p s).trans (carry_settle st _)).trans (carry_noticeMemberLost st p _ _)
  · split
    next c _ =>
      refine (State.Carry.trans ?_ (carry_settle st _)).trans (carry_noticeMemberLost st p _ _)
      split
      · exact (carry_clearSlot st c s).trans (carry_removeUnsignalled st _)
      · exact carry_clearSlot st c s
    next =>
      split
      · exact (carry_removeUnsignalled st s).trans (carry_settle st _)
      · exact .refl s

theorem carry_streamStep : s.Carry (streamStep p st s) := by
  unfold streamStep
  dsimp only
  split
  · exact .refl s
  · split
    · exact .refl s
    · refine State.Carry.trans ?_ (carry_drainTest st _)
      split
      · exact (carry_roleParts st p s).trans (carry_ownerPart st p _)
      · exact carry_roleParts st p s

end carry

/-! ### The changes of one port record -/

theorem PortRecord.Alike.sound {r r' : PortRecord} (h : r.Alike r') (hr : r.Sound) : r'.Sound := by
  rw [h]
  exact { hr with }

/-- A change of one port record that keeps it sound. -/
theorem PortsSound.modPort {s : State} (hs : PortsSound s) (p : Port) {f : PortRecord → PortRecord}
    (hf : (s.port p).Sound → (f (s.port p)).Sound) : PortsSound (s.modPort p f) := by
  intro q
  rw [modPort_port]
  split
  · exact hf (hs p)
  · exact hs q

/-- A replay record may change where there is one. -/
theorem PortRecord.Sound.withReplay {r : PortRecord} (h : r.Sound) {x : Option Replay} (hx : r.replay = none → x = none) :
    PortRecord.Sound { r with replay := x } := by
  refine { h with unattached := fun hn => ?_ }
  obtain ⟨notices, lost, replay⟩ := h.unattached hn
  exact ⟨notices, lost, hx replay⟩

theorem PortRecord.Sound.takeFrame {r : PortRecord} (h : r.Sound) (tag code check : Byte) : (takeFrame tag code check r).Sound := by
  refine { h with unattached := fun hn => ?_ }
  obtain ⟨notices, lost, replay⟩ := h.unattached hn
  have unrecorded : r.records tag code = false := by
    have : r.state ≠ .attached := hn
    simp [PortRecord.records, this]
  exact ⟨notices, lost, by simp [Machine.takeFrame, unrecorded, replay]⟩

/-- A session opens on a record whose port is DETACHED: no sweep is under way. -/
theorem PortRecord.Sound.attached {r : PortRecord} (h : r.Sound) (detached : r.state = .detached) {lease : Byte} (nonzero : lease ≠ 0) :
    (r.attached lease).Sound := by
  have still : r.sweep = none := by simpa [detached] using h.sweep
  exact ⟨by simp [PortRecord.attached], by simp [PortRecord.attached], by simp [PortRecord.attached],
    show defaultMask &&& ~~~maskableKinds = 0 by decide, nonzero,
    by simp [PortRecord.attached], by simp [PortRecord.attached, still], by simp [PortRecord.attached]⟩

theorem PortRecord.Sound.swept {r : PortRecord} (h : r.Sound) (lapsing : r.state = .lapsing) (tag : Option Byte) : (r.swept tag).Sound := by
  have leaseless : r.leaseRemaining = none := by simpa [lapsing] using h.lease
  have empty := h.unattached (by simp [lapsing])
  cases tag <;> exact { h with lease := by simp [PortRecord.swept, leaseless], sweep := by simp [PortRecord.swept],
                               unattached := fun _ => empty }

theorem portsSound_firstStage {s : State} (hs : PortsSound s) (p : Port) (tag : Option Byte) : PortsSound (firstStage p tag s) := by
  rw [firstStage_eq]
  refine PortsSound.modPort (s := s.withoutParked p) (fun q => ?_) p fun h => ?_
  · simpa [State.withoutParked] using hs q
  · exact ⟨by simp, by simp, by simp, h.mask, h.interval, by simp, by simp, by simp⟩

theorem portsSound_completeRequest {s : State} (hs : PortsSound s) (p : Port) (recorded : Bool) (r : Response) :
    PortsSound (completeRequest p recorded r s) := by
  have answered : PortsSound (queueResponse p r s) := hs.modPort p fun h => { h with }
  exact answered.modPort p fun h => h.withReplay fun absent => by simp [absent]

theorem State.Carry.of_leaves {s : State} {q : Served} (h : q.Leaves s) : s.Carry q.1 := by
  obtain ⟨reply, rfl⟩ := h
  exact .refl s

/-- The copy that a replay record waits for may be announced to it. -/
theorem PortRecord.carries_replay (r : PortRecord) {x : Option Replay} (hx : r.replay = none → x = none) :
    r.Carries { r with replay := x } :=
  ⟨rfl, List.prefix_refl _, fun h => h.withReplay hx⟩

/-- The port records after a request's body: carried along, but for the session that an ATTACH opens, the sweep that a DETACH begins and
the mask that SET_NOTICE_MASK sets. -/
theorem requestBody_ports (s : State) (p : Port) (name : RequestName) (tag : Byte) (payload : List Byte) :
    s.Carry (requestBody name p tag payload s).1 ∨
    (∃ lease, (s.port p).state ≠ .attached ∧ lease ≠ 0 ∧
      (requestBody name p tag payload s).1 = s.modPort p (PortRecord.attached lease)) ∨
    (requestBody name p tag payload s).1 = firstStage p (some tag) s ∨
    ∃ mask, mask &&& ~~~maskableKinds = 0 ∧
      (requestBody name p tag payload s).1 = s.modPort p fun r => { r with mask := mask } := by
  have unread : s.Carry s := .refl s
  cases name <;> dsimp only [requestBody]
  case attach =>
    obtain h | ⟨lease, data, unattached, nonzero, h⟩ := attachRequest_cases p payload s
    · exact .inl <| .of_leaves h
    · rw [h, okWith_fst]; exact .inr (.inl ⟨lease, unattached, nonzero, rfl⟩)
  case detach =>
    obtain h | h := detachRequest_cases p tag payload s
    · exact .inl <| .of_leaves h
    · rw [h]; dsimp only; exact .inr (.inr (.inl rfl))
  case renew => exact .inl <| .of_leaves (renewRequest_cases p payload s)
  case setNoticeMask =>
    obtain h | ⟨mask, data, maskable, h⟩ := setNoticeMaskRequest_cases p payload s
    · exact .inl <| .of_leaves h
    · rw [h, okWith_fst]; exact .inr (.inr (.inr ⟨mask, maskable, rfl⟩))
  case createPool =>
    obtain h | ⟨k, data, _, h⟩ := createPoolRequest_cases p payload s
    · exact .inl <| .of_leaves h
    · rw [h, okWith_fst]; exact .inl unread
  case dissolvePool =>
    obtain h | ⟨k, _, h⟩ := dissolvePoolRequest_cases p payload s
    · exact .inl <| .of_leaves h
    · rw [h, okWith_fst, unregisterAll_eq]
      exact .inl fun q => by simpa using PortRecord.Carries.refl _
  case claimPool =>
    obtain h | ⟨k, h⟩ := claimPoolRequest_cases p payload s
    · exact .inl <| .of_leaves h
    · rw [h, okWith_fst]; exact .inl unread
  case registerBuffer =>
    obtain h | ⟨k, b, handle, layout, data, _, _, h⟩ := registerBufferRequest_cases p payload s
    · exact .inl <| .of_leaves h
    · rw [h, okWith_fst]; exact .inl (follows_runArbiter k ((s.modBuffer b _).modPool k _)).carry
  case retireBuffer =>
    obtain h | ⟨b, _, ⟨_, h⟩ | ⟨_, h⟩⟩ := retireBufferRequest_cases p payload s
    · exact .inl <| .of_leaves h
    · rw [h, okWith_fst]
      unfold retireFree
      split <;> exact .inl unread
    · rw [h, okWith_fst]; exact .inl unread
  case openStream =>
    obtain h | ⟨c, st, data, _, _, _, _, h⟩ := openStreamRequest_cases p payload s
    · exact .inl <| .of_leaves h
    · rw [h, okWith_fst]; exact .inl unread
  case configureStream =>
    obtain h | ⟨st, c, _, _, h⟩ := configureStreamRequest_cases p payload s
    · exact .inl <| .of_leaves h
    · rw [h, okWith_fst]; exact .inl (carry_configure st s c)
  case closeStream =>
    obtain h | ⟨st, data, _, _, h⟩ := closeStreamRequest_cases p payload s
    · exact .inl <| .of_leaves h
    · rw [h, okWith_fst]; exact .inl ((carry_closeStream st s).trans (carry_drainTest st _))
  case claimStream =>
    obtain h | ⟨st, _, h⟩ := claimStreamRequest_cases p payload s
    · exact .inl <| .of_leaves h
    · rw [h, okWith_fst]; exact .inl unread
  case joinProducer =>
    obtain h | ⟨st, data, _, _, _, _, h⟩ := joinProducerRequest_cases p payload s
    · exact .inl <| .of_leaves h
    · rw [h, okWith_fst]; exact .inl unread
  case leave =>
    obtain h | ⟨st, _, ⟨_, h⟩ | ⟨c, _, h⟩⟩ := leaveRequest_cases p payload s
    · exact .inl <| .of_leaves h
    · rw [h, okWith_fst]; exact .inl (carry_producerLeave st s)
    · rw [h, okWith_fst]; exact .inl (carry_consumerLeave st c s)
  case acquire =>
    obtain h | ⟨st, _, _, _, _, ⟨b, rest, data, _, h⟩ | ⟨wait, h⟩⟩ := acquireRequest_cases p tag payload s
    · exact .inl <| .of_leaves h
    · rw [h, okWith_fst]; exact .inl unread
    · rw [h]
      unfold park
      dsimp only
      refine .inl fun q => ?_
      rw [modPort_port]
      split
      next hq =>
        subst hq
        exact PortRecord.carries_replay _ fun absent => by
          rw [modPool_port, modStream_port] at *
          simp [absent]
      next => exact .refl _
  case abandon =>
    obtain h | ⟨b, st, _, _, _, h⟩ := abandonRequest_cases p payload s
    · exact .inl <| .of_leaves h
    · rw [h, okWith_fst]; exact .inl ((follows_release b s).carry.trans (carry_drainTest st _))
  case publish =>
    obtain h | ⟨b, st, _, _, _, h | ⟨_, signalled, t, data, into, h⟩⟩ := publishRequest_cases p payload s
    · exact .inl <| .of_leaves h
    · rw [h, refuse_fst]; exact .inl ((follows_release b s).carry.trans (carry_drainTest st _))
    · rw [h, okWith_fst]; exact .inl (carry_publishInto st s into)
  case signal =>
    obtain h | ⟨b, st, e, data, _, _, _, _, h⟩ := signalRequest_cases p payload s
    · exact .inl <| .of_leaves h
    · rw [h, okWith_fst]; exact .inl (carry_settle st (s.modStream st _))
  case joinConsumer =>
    obtain h | ⟨st, c, source, threshold, data, _, _, _, h⟩ := joinConsumerRequest_cases p payload s
    · exact .inl <| .of_leaves h
    · rw [h, okWith_fst]; exact .inl unread
  case retuneConsumer =>
    obtain h | ⟨st, c, source, threshold, _, h⟩ := retuneConsumerRequest_cases p payload s
    · exact .inl <| .of_leaves h
    · rw [h, okWith_fst]
      unfold retune
      dsimp only
      split <;> exact .inl unread
  case ackStall =>
    obtain h | ⟨st, c, data, _, h⟩ := ackStallRequest_cases p payload s
    · exact .inl <| .of_leaves h
    · rw [h, okWith_fst]; exact .inl unread
  case startTimer =>
    obtain h | ⟨i, period, _, h⟩ := startTimerRequest_cases p payload s
    · exact .inl <| .of_leaves h
    · rw [h, okWith_fst]; exact .inl unread
  case stopTimer =>
    obtain h | ⟨i, h⟩ := stopTimerRequest_cases p payload s
    · exact .inl <| .of_leaves h
    · rw [h, okWith_fst]; exact .inl unread
  case claimTimer =>
    obtain h | ⟨i, h⟩ := claimTimerRequest_cases p payload s
    · exact .inl <| .of_leaves h
    · rw [h, okWith_fst]; exact .inl unread
  case queryDevice =>
    obtain h | ⟨data, h⟩ := queryDeviceRequest_cases p payload s
    · exact .inl <| .of_leaves h
    · rw [h, okWith_fst]; exact .inl unread
  case queryPort => exact .inl <| .of_leaves (queryPortRequest_cases payload s)
  case queryPool => exact .inl <| .of_leaves (queryPoolRequest_cases payload s)
  case queryStream =>
    obtain h | ⟨data, h⟩ := queryStreamRequest_cases payload s
    · exact .inl <| .of_leaves h
    · rw [h, okWith_fst]; exact .inl unread
  case queryBuffer => exact .inl <| .of_leaves (queryBufferRequest_cases payload s)

/-- What a taken frame executes keeps the port records sound. -/
theorem portsSound_requestBody {s : State} {p : Port} (hs : PortsSound s) (awake : (s.port p).state ≠ .lapsing) (name : RequestName)
    (tag : Byte) (payload : List Byte) : PortsSound (requestBody name p tag payload s).1 := by
  obtain h | ⟨lease, unattached, nonzero, h⟩ | h | ⟨mask, maskable, h⟩ := requestBody_ports s p name tag payload
  · exact h.portsSound hs
  · rw [h]
    have detached : (s.port p).state = .detached := by cases hd : (s.port p).state <;> simp_all
    exact hs.modPort p fun h => h.attached detached nonzero
  · rw [h]
    exact portsSound_firstStage hs p _
  · rw [h]
    exact hs.modPort p fun h => { h with mask := maskable }

/-- A frame's body is that of a request of the catalogue, or it refuses. -/
theorem frameBody_cases (p : Port) (tag code : Byte) (payload : List Byte) :
    (∃ name, codeOf name = code ∧ frameBody p tag code payload = requestBody name p tag payload) ∨
      frameBody p tag code payload = refuse .unknown := by
  unfold frameBody
  split
  next name h => exact .inl ⟨name, codeOf_of_requestOfCode h, rfl⟩
  next => exact .inr rfl

/-- The execution of a taken frame: the taking, the body, and the completion where the body answers. -/
theorem executeRequest_cases {p : Port} {tag code check : Byte} {body : State → Served} {s : State} {motive : State → Prop}
    (answered : ∀ t reply, body (s.modPort p (takeFrame tag code check)) = (t, some reply) → ∀ recorded,
      motive (completeRequest p recorded ⟨tag, code, reply.result, reply.data⟩ t))
    (parked : ∀ t, body (s.modPort p (takeFrame tag code check)) = (t, none) → motive t) :
    motive (executeRequest p tag code check body s) := by
  unfold executeRequest
  split
  next t reply h => exact answered t reply h _
  next t h => exact parked t h

theorem portsSound_executeRequest {s : State} {p : Port} {tag code check : Byte} (payload : List Byte) (hs : PortsSound s)
    (awake : (s.port p).state ≠ .lapsing) : PortsSound (executeRequest p tag code check (frameBody p tag code payload) s) := by
  have taken : PortsSound (s.modPort p (takeFrame tag code check)) := hs.modPort p fun h => h.takeFrame tag code check
  have body : PortsSound (frameBody p tag code payload (s.modPort p (takeFrame tag code check))).1 := by
    obtain ⟨name, _, h⟩ | h := frameBody_cases p tag code payload
    · rw [h]
      exact portsSound_requestBody taken (by simpa [takeFrame] using awake) name tag payload
    · rw [h]
      exact taken
  refine executeRequest_cases (fun t reply h recorded => ?_) fun t h => ?_
  · rw [h] at body; exact portsSound_completeRequest body p recorded _
  · rw [h] at body; exact body

theorem PortRecord.sound_reset : PortRecord.reset.Sound := by constructor <;> decide

theorem portsSound_stepKeeps : StepKeeps (fun _ => True) PortsSound where
  assumed _ _ := trivial
  neutral h hs p := (h.ports p).sound (hs p)
  renewed p hs := by
    refine PortsSound.modPort hs p fun h => ?_
    split
    next attached => exact { h with lease := by simp [attached] }
    next => exact h
  taken payload _ hs hj := portsSound_executeRequest payload hs (judge_eq_taken hj).1
  replayed {s p tag code check} hs hj := hs.modPort p fun h => { h with }
  response p w hs := by
    refine PortsSound.modPort hs p fun h => ?_
    split
    · split
      · exact { h with }
      · exact h
    · exact h
  notice p w hs := by
    refine PortsSound.modPort hs p fun h => ?_
    split
    next x y rest _ queue =>
      have short := h.notices
      rw [queue] at short
      split_ifs
      next _ none =>
        refine { h with notices := ?_, lostFull := fun some => absurd none some, unattached := fun hn => ?_ }
        · simpa using Nat.le_of_succ_le short
        · have := (h.unattached hn).1
          simp [queue] at this
      next _ some =>
        refine { h with notices := ?_, lost := by simp, lostFull := by simp, unattached := fun hn => ?_ }
        · simpa using short
        · have := (h.unattached hn).1
          simp [queue] at this
      next => exact h
    · exact h
  timer i hs _ := hs
  boundary st c _ hs := (carry_takeBoundary st c _).portsSound hs
  wait st reply _ hs := (follows_completeParked st reply _).portsSound hs
  deadline _ hs _ := (carry_expireEntry _ _ _).portsSound hs
  sweepBegins p tag _ hs _ := portsSound_firstStage hs p tag
  streamStep _ hs _ := (carry_streamStep _ _ _).portsSound hs
  advance p next hs := hs.modPort p fun h => { h with sweep := by rw [← h.sweep]; simp }
  thirdStage p hs := hs
  fourthStage p tag _ hs lapsing := hs.modPort p fun h => h.swept lapsing tag
  reset s p := by
    have : (resetRecords s).port p = (s.port p).afterReset := get_mapBank ..
    rw [this]
    exact { PortRecord.sound_reset with }
  time hs p := by
    rw [passTime_port]
    exact { hs p with lease := by rw [← (hs p).lease]; simp [countDown] }

/-- Settles O57: every kind of change keeps the port records sound. -/
theorem stepKeepsPortsSound : Obligations.StepKeepsPortsSound :=
  fun _ _ hs ht => portsSound_stepKeeps.step trivial hs ht

end Sys2Proof.Machine
end

section
/-!
PROOFS. The stream records stay sound (O58). Releases, grants, cancellations and removals thin one stream's list and end parked ACQUIREs; the
changes that are left are of one stream record, and each keeps it sound.
-/

namespace Sys2Proof.Machine

/-! ### Streams that lose entries or a parked ACQUIRE -/

/-- The record `x'` is `x` with entries gone from its list, or its parked ACQUIRE ended, or both. -/
structure Stream.Thins (x x' : Stream) : Prop where
  same : x' = { x with list := x'.list, parked := x'.parked }
  list : x'.list.Sublist x.list
  parked : x'.parked = x.parked ∨ x'.parked = none

theorem Stream.Thins.refl (x : Stream) : x.Thins x := ⟨rfl, .refl _, .inl rfl⟩

theorem Stream.Thins.trans {x y z : Stream} (h : x.Thins y) (g : y.Thins z) : x.Thins z where
  same := by rw [g.same, h.same]
  list := g.list.trans h.list
  parked := by
    rcases g.parked with hz | hz
    · rw [hz]; exact h.parked
    · exact .inr hz

theorem Stream.Ends.thins {x x' : Stream} (h : x.Ends x') : x.Thins x' := by
  rcases h with rfl | rfl
  · exact .refl _
  · exact ⟨rfl, .refl _, .inr rfl⟩

/-- Stream `st` of `t` is that of `s` thinned; every other stream has lost at most its parked ACQUIRE. -/
structure State.Thins (st : StreamId) (s t : State) : Prop where
  own : (s.stream st).Thins (t.stream st)
  others : ∀ u, u ≠ st → (s.stream u).Ends (t.stream u)

theorem State.Thins.refl (st : StreamId) (s : State) : s.Thins st s := ⟨.refl _, fun _ _ => .refl _⟩

theorem State.Thins.trans {st : StreamId} {s t u : State} (h : s.Thins st t) (g : t.Thins st u) : s.Thins st u :=
  ⟨h.own.trans g.own, fun v hv => (h.others v hv).trans (g.others v hv)⟩

theorem State.Follows.thins {s t : State} (h : s.Follows t) (st : StreamId) : s.Thins st t :=
  ⟨(h.streams st).thins, fun u _ => h.streams u⟩

/-- What one stream is changed to does not matter to the others. -/
theorem State.Thins.others_of_modStream {st u : StreamId} {s t : State} {f : Stream → Stream} (h : (s.modStream st f).Thins st t)
    (hu : u ≠ st) : (s.stream u).Ends (t.stream u) := by
  have := h.others u hu
  rwa [modStream_stream_of_ne s st f hu] at this

section thins
variable (st : StreamId) (s : State)

theorem thins_removeEntries (bs : List BufferId) : s.Thins st (removeEntries st bs s) := by
  have h : State.Thins st s (s.modStream st fun x => { x with list := without x.list bs }) := by
    refine ⟨?_, fun u hu => ?_⟩
    · rw [modStream_stream_same]
      exact ⟨rfl, List.filter_sublist, .inl rfl⟩
    · rw [modStream_stream_of_ne _ _ _ hu]
      exact .refl _
  exact h.trans ((follows_removeEntries st bs s).thins st)

theorem thins_settle : s.Thins st (settle st s) := thins_removeEntries st s _

theorem thins_removeUnsignalled : s.Thins st (removeUnsignalled st s) :=
  ((follows_chosen s).thins st).trans (thins_removeEntries st (chosen s) _)

/-- The drain completion test ends in the state it began with, or clears the one stream. -/
theorem drainTest_stream (u : StreamId) :
    (drainTest st s).stream u = s.stream u ∨ u = st ∧ s.drained st = true ∧ (drainTest st s).stream u = Stream.cleared := by
  obtain h | ⟨drained, n, h⟩ := drainTest_cases st s
  · exact .inl (by rw [h])
  · rw [h, modStream_stream]
    split
    next hu => exact .inr ⟨hu, drained, rfl⟩
    next => exact .inl (queueNoticeTo_stream ..)

end thins

/-! ### Slot sets and marks -/

theorem has_put (x : SlotSet) (c d : SlotId) (v : Bool) : (x.put c v).has d = if d = c then v else x.has d := by
  match c, d with
  | 0, 0 | 0, 1 | 0, 2 | 1, 0 | 1, 1 | 1, 2 | 2, 0 | 2, 1 | 2, 2 => rfl

theorem has_empty (c : SlotId) : SlotSet.empty.has c = false := by
  match c with
  | 0 | 1 | 2 => rfl

/-- The marks of a slot are an unbroken run at the head of the list (R96). -/
def Marked (c : SlotId) (l : List Entry) : Prop := l.Pairwise fun d e => e.passed.has c = true → d.passed.has c = true

/-- Two lists with the same marks of a slot. -/
theorem marked_congr {c : SlotId} {l l' : List Entry} (h : l'.map (fun e => e.passed.has c) = l.map fun e => e.passed.has c) :
    Marked c l' ↔ Marked c l := by
  have through (k : List Entry) :
      Marked c k ↔ (k.map fun e => e.passed.has c).Pairwise fun a b => b = true → a = true := by
    rw [List.pairwise_map]; rfl
  rw [through, through, h]

theorem marked_of_none {c : SlotId} {l : List Entry} (h : ∀ e ∈ l, e.passed.has c = false) : Marked c l :=
  List.Pairwise.imp_of_mem (R := fun _ _ => True) (fun _ he _ set => by simp [h _ he] at set) (List.pairwise_of_forall fun _ _ => trivial)

theorem passUpTo_length (c : SlotId) (b : BufferId) (l : List Entry) : (passUpTo c b l).length = l.length := by
  induction l with
  | nil => rfl
  | cons e l ih =>
    unfold passUpTo
    split
    · rfl
    · simp [ih]

/-- A flip of one slot leaves the marks of the others. -/
theorem passUpTo_marks {c d : SlotId} (h : d ≠ c) (b : BufferId) (l : List Entry) :
    (passUpTo c b l).map (fun e => e.passed.has d) = l.map fun e => e.passed.has d := by
  induction l with
  | nil => rfl
  | cons e l ih =>
    unfold passUpTo
    split
    · simp [has_put, h]
    · simp [has_put, h, ih]

/-- A flip marks an unbroken run. -/
theorem passUpTo_marked {c : SlotId} {l : List Entry} (b : BufferId) (h : Marked c l) : Marked c (passUpTo c b l) := by
  induction l with
  | nil => exact .nil
  | cons e l ih =>
    obtain ⟨_, rest⟩ := List.pairwise_cons.mp h
    unfold passUpTo
    split
    · exact List.pairwise_cons.mpr ⟨fun _ _ _ => by simp [has_put], rest⟩
    · exact List.pairwise_cons.mpr ⟨fun _ _ _ => by simp [has_put], ih rest⟩

/-! ### The changes of one stream record -/

theorem Stream.sound_cleared : Stream.cleared.Sound := by
  have slots (c : SlotId) : Stream.cleared.slot c = Slot.cleared := by simp [Stream.slot, Stream.cleared, Vector.get]
  exact ⟨fun _ => rfl, by decide, by decide, by decide, by decide, fun hp => (nomatch hp), fun hl => (nomatch hl), fun _ => rfl,
    fun c => by rw [slots]; exact Nat.zero_le _, fun _ => .nil, fun _ _ _ he => (nomatch he)⟩

theorem Stream.Sound.open_of_producer {x : Stream} (h : x.Sound) {p : Port} (hp : x.producer = some p) : x.state ≠ .closed := by
  intro hc
  rw [h.closed hc] at hp
  cases hp

theorem Stream.Sound.open_of_mem {x : Stream} (h : x.Sound) {e : Entry} (he : e ∈ x.list) : x.state ≠ .closed := by
  intro hc
  rw [h.closed hc] at he
  cases he

theorem Stream.Sound.open_of_parked {x : Stream} (h : x.Sound) (hp : x.parked.isSome = true) : x.state ≠ .closed := by
  intro hc
  rw [h.closed hc] at hp
  cases hp

theorem Stream.Sound.slot_of_closed {x : Stream} (h : x.Sound) (hc : x.state = .closed) (c : SlotId) : x.slot c = Slot.cleared := by
  rw [h.closed hc]
  simp [Stream.slot, Stream.cleared, Vector.get]

theorem Stream.Thins.sound {x x' : Stream} (h : x.Thins x') (hx : x.Sound) : x'.Sound := by
  rw [h.same]
  have gone : x.state = .closed ∨ x.state = .draining → x'.list = [] := by
    rintro (hc | hd)
    · have := h.list
      rw [hx.closed hc] at this
      exact List.sublist_nil.mp this
    · have := h.list
      rw [hx.draining hd] at this
      exact List.sublist_nil.mp this
  refine { hx with closed := fun hc => ?_, list := h.list.length_le.trans hx.list, draining := fun hd => gone (.inr hd),
                   passed := fun c => (hx.passed c).sublist h.list,
                   unoccupied := fun c hc e he => hx.unoccupied c hc e (h.list.subset he) }
  have unparked : x'.parked = none := by
    rcases h.parked with hp | hp
    · rw [hp, hx.closed hc]; rfl
    · exact hp
  rw [gone (.inl hc), unparked, hx.closed hc]
  rfl

/-- A slot of a stream that is not CLOSED takes new values, and becomes unoccupied only if it was. -/
theorem Stream.Sound.modSlot {x : Stream} (h : x.Sound) (opened : x.state ≠ .closed) {c : SlotId} {f : Slot → Slot}
    (repeats : (f (x.slot c)).repeats ≤ 255) (occupied : (f (x.slot c)).occupied = false → (x.slot c).occupied = false) :
    (x.modSlot c f).Sound := by
  refine { h with closed := fun hc => absurd hc opened, repeats := fun d => ?_, unoccupied := fun d hd => ?_ }
  · rw [modSlot_slot]
    split
    · exact repeats
    · exact h.repeats d
  · rw [modSlot_slot] at hd
    split at hd
    next hdc => subst hdc; exact h.unoccupied d (occupied hd)
    next => exact h.unoccupied d hd

/-- A cleared slot stands in no passed set. -/
theorem Stream.Sound.withoutSlot {x : Stream} (h : x.Sound) (opened : x.state ≠ .closed) (c : SlotId) : (x.withoutSlot c).Sound := by
  have slots (d : SlotId) : (x.withoutSlot c).slot d = if d = c then Slot.cleared else x.slot d := get_set ..
  refine { h with closed := fun hc => absurd hc opened, list := by simpa [Stream.withoutSlot] using h.list,
                  draining := fun hd => by simp [Stream.withoutSlot, h.draining hd], repeats := fun d => ?_, passed := fun d => ?_,
                  unoccupied := fun d hd e he => ?_ }
  · rw [slots]
    split
    · simp [Slot.cleared]
    · exact h.repeats d
  · refine List.pairwise_map.mpr ((h.passed d).imp fun {a b} hab => ?_)
    rw [has_put, has_put]
    split
    · exact id
    · exact hab
  · obtain ⟨e', he', rfl⟩ := List.mem_map.mp he
    rw [slots] at hd
    rw [has_put]
    split
    · rfl
    next hdc => exact h.unoccupied d (by simpa [hdc] using hd) e' he'

/-- Entries of a stream that is not CLOSED change elsewhere than in their passed sets. -/
theorem Stream.Sound.mapList {x : Stream} (h : x.Sound) (opened : x.state ≠ .closed) {f : Entry → Entry}
    (hf : ∀ e, (f e).passed = e.passed) : Stream.Sound { x with list := x.list.map f } := by
  refine { h with closed := fun hc => absurd hc opened, list := by simpa using h.list, draining := fun hd => by simp [h.draining hd],
                  passed := fun c => ?_, unoccupied := fun c hc e he => ?_ }
  · exact List.pairwise_map.mpr ((h.passed c).imp fun {a b} hab => by simpa only [hf] using hab)
  · obtain ⟨e', he', rfl⟩ := List.mem_map.mp he
    rw [hf]
    exact h.unoccupied c hc e' he'

/-- A flip at an occupied slot. -/
theorem Stream.Sound.passUpTo {x : Stream} (h : x.Sound) {c : SlotId} (occupied : (x.slot c).occupied = true) (b : BufferId) :
    Stream.Sound { x with list := passUpTo c b x.list } := by
  have opened : x.state ≠ .closed := fun hc => by simp [h.slot_of_closed hc, Slot.cleared] at occupied
  refine { h with closed := fun hc => absurd hc opened, list := by rw [passUpTo_length]; exact h.list,
                  draining := fun hd => by simp [h.draining hd, Machine.passUpTo], passed := fun d => ?_,
                  unoccupied := fun d hd e he => ?_ }
  · by_cases hdc : d = c
    · subst hdc; exact passUpTo_marked b (h.passed d)
    · exact (marked_congr (passUpTo_marks hdc b x.list)).mpr (h.passed d)
  · have hdc : d ≠ c := fun hdc => Bool.noConfusion (occupied.symm.trans (hdc ▸ hd))
    have mark : e.passed.has d ∈ (Machine.passUpTo c b x.list).map fun e => e.passed.has d := List.mem_map_of_mem he
    rw [passUpTo_marks hdc] at mark
    obtain ⟨e', he', eq⟩ := List.mem_map.mp mark
    rw [← eq]
    exact h.unoccupied d hd e' he'

/-- A new entry, which no slot has passed, joins a list with room. -/
theorem Stream.Sound.append {x : Stream} (h : x.Sound) (running : x.state ≠ .closed ∧ x.state ≠ .draining)
    (room : x.list.length < x.depth) (b : BufferId) (signalled : Bool) (n m : Half) :
    Stream.Sound { x with list := x.list ++ [newEntry b signalled x], nextSequence := n, published := m } := by
  refine { h with closed := fun hc => absurd hc running.1, list := by simpa using room, draining := fun hd => absurd hd running.2,
                  passed := fun c => ?_, unoccupied := fun c hc e he => ?_ }
  · refine List.pairwise_append.mpr ⟨h.passed c, List.pairwise_singleton _ _, fun d _ e he => ?_⟩
    obtain rfl := List.mem_singleton.mp he
    simp [newEntry, has_empty]
  · rcases List.mem_append.mp he with he | he
    · exact h.unoccupied c hc e he
    · obtain rfl := List.mem_singleton.mp he
      exact has_empty c

/-- The ranges of R26 in the words of the model's check. -/
theorem inRange_ranges {c : ConfigItems} {quota reserve : Nat} (h : c.inRange quota reserve = true) :
    (∀ b, c.depth = some b → 1 ≤ b.toNat ∧ b.toNat ≤ 8) ∧ (∀ b, c.quota = some b → 1 ≤ b.toNat ∧ b.toNat ≤ 16) ∧
      (c.quota.isSome = true ∨ c.reserve.isSome = true → itemNat c.reserve reserve ≤ itemNat c.quota quota) := by
  simp only [ConfigItems.inRange, Bool.and_eq_true, Bool.or_eq_true, Bool.not_eq_true', Bool.or_eq_false_iff, decide_eq_true_eq] at h
  obtain ⟨⟨⟨⟨⟨⟨⟨_, _⟩, depth⟩, quota'⟩, reserve'⟩, _⟩, _⟩, _⟩ := h
  refine ⟨fun b hb => ?_, fun b hb => ?_, fun given => ?_⟩
  · simpa [hb, itemOk] using depth
  · simpa [hb, itemOk] using quota'
  · rcases reserve' with absent | le
    · rcases given with h | h
      · simp [absent.1] at h
      · simp [absent.2] at h
    · exact le

/-- Items in their ranges keep depth, quota and reserve in theirs. -/
theorem ConfigItems.apply_ranges {c : ConfigItems} {x : Stream} (h : c.inRange x.quota x.reserve = true)
    (depth : 1 ≤ x.depth ∧ x.depth ≤ 8) (quota : 1 ≤ x.quota ∧ x.quota ≤ 16) (reserve : x.reserve ≤ x.quota) :
    (1 ≤ (c.apply x).depth ∧ (c.apply x).depth ≤ 8) ∧ (1 ≤ (c.apply x).quota ∧ (c.apply x).quota ≤ 16) ∧
      (c.apply x).reserve ≤ (c.apply x).quota := by
  obtain ⟨hd, hq, hr⟩ := inRange_ranges h
  refine ⟨?_, ?_, ?_⟩
  · cases hc : c.depth with
    | none => simpa [ConfigItems.apply, itemNat, hc] using depth
    | some b => simpa [ConfigItems.apply, itemNat, hc] using hd b hc
  · cases hc : c.quota with
    | none => simpa [ConfigItems.apply, itemNat, hc] using quota
    | some b => simpa [ConfigItems.apply, itemNat, hc] using hq b hc
  · cases hc : c.quota <;> cases hc' : c.reserve <;> simp_all [ConfigItems.apply, itemNat]

theorem sound_openedStream {c : ConfigItems} (p : Port) (h : c.inRange Stream.cleared.quota Stream.cleared.reserve = true) :
    (openedStream p c).Sound := by
  obtain ⟨depth, quota, reserve⟩ :=
    ConfigItems.apply_ranges h Stream.sound_cleared.depth Stream.sound_cleared.quota Stream.sound_cleared.reserve
  exact ⟨fun hc => (nomatch hc), depth, quota, reserve, Nat.zero_le _, fun hp => (nomatch hp), fun hl => (nomatch hl), fun _ => rfl,
    Stream.sound_cleared.repeats, fun _ => .nil, fun _ _ _ he => (nomatch he)⟩

/-- The state of a stream is VACANT or LIVE. -/
theorem Stream.Sound.state_of_running {x : Stream} (running : x.state ≠ .closed ∧ x.state ≠ .draining) :
    x.state = .vacant ∨ x.state = .live := by
  cases h : x.state <;> simp_all

theorem Stream.Sound.configured {x : Stream} (h : x.Sound) {c : ConfigItems} (running : x.state ≠ .closed ∧ x.state ≠ .draining)
    (inRange : c.inRange x.quota x.reserve = true) (listed : ¬(c.depth.isSome = true ∧ itemNat c.depth x.depth < x.list.length)) :
    (c.apply x).Sound := by
  obtain ⟨depth, quota, reserve⟩ := ConfigItems.apply_ranges inRange h.depth h.quota h.reserve
  have fits : x.list.length ≤ itemNat c.depth x.depth := by
    cases hc : c.depth with
    | none => exact h.list
    | some b => simpa [hc] using listed
  exact { h with closed := fun hc => absurd hc running.1, depth := depth, quota := quota, reserve := reserve, list := fits }

/-! ### The stream records after each operation -/

theorem StreamsSound.modStream {s : State} (hs : StreamsSound s) (st : StreamId) {f : Stream → Stream}
    (hf : (s.stream st).Sound → (f (s.stream st)).Sound) : StreamsSound (s.modStream st f) := by
  intro u
  rw [modStream_stream]
  split
  · exact hf (hs st)
  · exact hs u

theorem State.Thins.streamsSound {st : StreamId} {s t : State} (h : s.Thins st t) (hs : StreamsSound s) : StreamsSound t := by
  intro u
  by_cases hu : u = st
  · subst hu; exact h.own.sound (hs u)
  · exact (h.others u hu).sound (hs u)

section streamsSound
variable {s : State} {st : StreamId}

theorem streamsSound_drainTest (hs : StreamsSound s) (st : StreamId) : StreamsSound (drainTest st s) := by
  intro u
  obtain h | ⟨_, _, h⟩ := drainTest_stream st s u
  · rw [h]; exact hs u
  · rw [h]; exact Stream.sound_cleared

theorem streamsSound_clearSlot (hs : StreamsSound s) (opened : (s.stream st).state ≠ .closed) (c : SlotId) :
    StreamsSound (clearSlot st c s) :=
  (follows_clearSlot st c s).streamsSound
    (show StreamsSound (s.modStream st fun x => x.withoutSlot c) from hs.modStream st fun h => h.withoutSlot opened c)

theorem clearSlot_stream (st : StreamId) (c : SlotId) (s : State) :
    ((s.stream st).withoutSlot c).Ends ((clearSlot st c s).stream st) := by
  have ends : Stream.Ends ((s.modStream st fun x => x.withoutSlot c).stream st) ((clearSlot st c s).stream st) :=
    (follows_clearSlot st c s).streams st
  rwa [modStream_stream_same] at ends

/-- The steps of a close before the drain completion test: DRAINING, the list empty. -/
theorem thins_closeStream (s : State) (st : StreamId) :
    (s.modStream st fun x => { x with state := .draining, list := [] }).Thins st (closeStream st s) := by
  have cancelled := follows_cancelParked st (s.modStream st fun x => { x with state := .draining })
  have listed := (cancelled.streams st).list
  rw [modStream_stream_same] at listed
  unfold closeStream
  extract_lets a b
  have removed : (s.modStream st fun x => { x with state := .draining, list := [] }).Thins st b := by
    have empty : (b.stream st).list = [] := by
      rw [show b = removeEntries st ((a.stream st).list.map Entry.buffer) a from rfl, removeEntries_list]
      refine List.filter_eq_nil_iff.mpr fun e he => ?_
      simpa using ⟨e, he, rfl⟩
    have thinned : (s.modStream st fun x => { x with state := .draining }).Thins st b :=
      (cancelled.thins st).trans (thins_removeEntries st a _)
    refine ⟨?_, fun u hu => ?_⟩
    · have own := thinned.own
      rw [modStream_stream_same] at own ⊢
      exact ⟨by rw [own.same], by rw [empty], own.parked⟩
    · rw [modStream_stream_of_ne _ _ _ hu]
      exact thinned.others_of_modStream hu
  exact removed.trans ((follows_queueNotices _ _ b).thins st)

theorem streamsSound_closeStream (hs : StreamsSound s) (st : StreamId) : StreamsSound (closeStream st s) := by
  refine (thins_closeStream s st).streamsSound (hs.modStream st fun h => ?_)
  exact { h with closed := fun hc => by simp at hc, list := Nat.zero_le _, producer := fun _ => .inr rfl, live := fun hl => by simp at hl,
                 draining := fun _ => rfl, passed := fun _ => .nil, unoccupied := fun _ _ _ he => by cases he }

/-- A stream whose producer has gone and that is vacated if it was LIVE, its list thinned before or after. -/
theorem Stream.Sound.vacated {x y : Stream} (h : x.Sound) (opened : x.state ≠ .closed)
    (thinned : Stream.Thins { x with producer := none } y) :
    Stream.Sound { y with state := if y.state = .live then .vacant else y.state } := by
  have first : Stream.Sound { x with producer := none, state := if x.state = .live then .vacant else x.state } := by
    refine { h with closed := fun hc => ?_, producer := fun hp => (by cases hp), live := fun hl => ?_, draining := fun hd => ?_ }
    · exfalso; dsimp only at hc; split_ifs at hc; exact opened hc
    · exfalso; dsimp only at hl; split_ifs at hl; contradiction
    · dsimp only at hd; split_ifs at hd; exact h.draining hd
  have state : y.state = x.state := by rw [thinned.same]
  refine Stream.Thins.sound (x := { x with producer := none, state := if x.state = .live then .vacant else x.state })
    ⟨?_, thinned.list, thinned.parked⟩ first
  rw [state, thinned.same]

/-- Whatever thins the stream between its producer's going and its vacating, and the drain completion test after it. -/
theorem streamsSound_vacate {t u : State} (hs : StreamsSound s) (opened : (s.stream st).state ≠ .closed) (before : s.Thins st t)
    (after : (t.modStream st fun x => { x with producer := none }).Thins st u) :
    StreamsSound (u.modStream st fun x => { x with state := if x.state = .live then .vacant else x.state }) := by
  intro v
  by_cases hv : v = st
  · subst hv
    rw [modStream_stream_same]
    have own := after.own
    rw [modStream_stream_same] at own
    have state : (t.stream v).state = (s.stream v).state := by rw [before.own.same]
    exact (before.own.sound (hs v)).vacated (state ▸ opened) own
  · rw [modStream_stream_of_ne _ _ _ hv]
    exact ((before.others v hv).trans (after.others_of_modStream hv)).sound (hs v)

theorem thins_removeUnsignalled_if (q : Prop) [Decidable q] (s : State) (st : StreamId) :
    s.Thins st (if q then removeUnsignalled st s else s) := by
  split
  · exact thins_removeUnsignalled st s
  · exact .refl st s

theorem streamsSound_producerLeave (hs : StreamsSound s) (opened : (s.stream st).state ≠ .closed) :
    StreamsSound (producerLeave st s) := by
  unfold producerLeave
  extract_lets a b c
  have after : a.Thins st (settle st c) :=
    (((follows_releaseFillings st a).thins st).trans (thins_removeUnsignalled_if _ b st)).trans (thins_settle st c)
  exact streamsSound_drainTest (streamsSound_vacate hs opened ((follows_cancelParked st s).thins st) after) st

theorem streamsSound_consumerLeave (hs : StreamsSound s) (opened : (s.stream st).state ≠ .closed) (c : SlotId) :
    StreamsSound (consumerLeave st c s) :=
  streamsSound_drainTest ((thins_settle st _).streamsSound (streamsSound_clearSlot hs opened c)) st

theorem configureRefusal_eq_none {p : Port} {c : ConfigItems} (h : configureRefusal p st c s = none) :
    (s.stream st).state ≠ .draining ∧ c.inRange (s.stream st).quota (s.stream st).reserve = true ∧ poolMissing c s = false ∧
      ((c.poolOf (s.stream st).pool ≠ (s.stream st).pool ∨ c.policyOf (s.stream st).policy ≠ (s.stream st).policy) →
        s.outstanding st = 0) ∧
      ¬(c.depth.isSome = true ∧ itemNat c.depth (s.stream st).depth < (s.stream st).list.length) := by
  unfold configureRefusal at h
  dsimp only at h
  split_ifs at h with _ draining outside missing bound short
  exact ⟨draining, by simpa using outside, by simpa using missing, fun changed => by_contra fun some => bound ⟨changed,
    Nat.pos_of_ne_zero some⟩, short⟩

theorem streamsSound_configure {p : Port} {c : ConfigItems} (hs : StreamsSound s) (opened : (s.stream st).state ≠ .closed)
    (passed : configureRefusal p st c s = none) : StreamsSound (configure st c s) := by
  obtain ⟨running, inRange, _, _, listed⟩ := configureRefusal_eq_none passed
  unfold configure
  extract_lets x a b y
  have ended : s.Follows a := by
    simp only [a]
    split
    · exact follows_cancelParked st s
    · exact .refl s
  have applied : StreamsSound b := by
    refine (ended.streamsSound hs).modStream st fun h => ?_
    have e := ended.streams st
    refine h.configured ⟨by rwa [e.state], by rwa [e.state]⟩ (by rwa [e.quota, e.reserve]) (by rwa [e.depth, e.list])
  split_ifs
  · exact (follows_runArbiter _ b).streamsSound applied
  · exact applied

theorem streamsSound_append (hs : StreamsSound s) (running : (s.stream st).state ≠ .closed ∧ (s.stream st).state ≠ .draining)
    (room : (s.stream st).list.length < (s.stream st).depth) (b : BufferId) (signalled : Bool) :
    StreamsSound (append st b signalled s) :=
  (thins_settle st _).streamsSound
    ((follows_modBuffer _ b _).streamsSound (hs.modStream st fun h => h.append running room b signalled _ _))

/-- The list of a full stream has room after a drop (R68). -/
theorem dropEntry_stream {e : Entry} (he : e ∈ (s.stream st).list) :
    ∃ l, l.Sublist (s.stream st).list ∧ l.length < (s.stream st).list.length ∧
      Stream.Ends { s.stream st with list := l, dropped := (s.stream st).dropped + 1 } ((dropEntry st e s).stream st) := by
  refine ⟨without (s.stream st).list [e.buffer], List.filter_sublist, ?_, ?_⟩
  · exact List.length_filter_lt_length_iff_exists.mpr ⟨e, he, by simp⟩
  · have judged (t : State) : (t.stream st).Ends ((unlist e.buffer t).stream st) := (follows_unlist e.buffer t).streams st
    unfold dropEntry
    dsimp only
    split
    · have := judged (s.modStream st fun x => { x with list := without x.list [e.buffer], dropped := x.dropped + 1 })
      rwa [modStream_stream_same] at this
    · refine Stream.Ends.trans ?_ (judged _)
      rw [queueNoticeTo_stream, modStream_stream_same]
      exact .refl _

theorem streamsSound_dropEntry (hs : StreamsSound s) {e : Entry} (he : e ∈ (s.stream st).list) : StreamsSound (dropEntry st e s) := by
  have dropped : StreamsSound (s.modStream st fun x => { x with list := without x.list [e.buffer], dropped := x.dropped + 1 }) := by
    refine hs.modStream st fun h => ?_
    have thinned := Stream.Thins.sound (x' := { s.stream st with list := without (s.stream st).list [e.buffer] })
      ⟨rfl, List.filter_sublist, .inl rfl⟩ h
    exact { thinned with closed := fun hc => absurd hc (h.open_of_mem he) }
  unfold dropEntry
  extract_lets a b
  refine (follows_unlist _ b).streamsSound ?_
  simp only [b]
  split
  · exact dropped
  · exact (follows_queueNoticeTo _ _ a).streamsSound dropped

theorem streamsSound_publishInto (hs : StreamsSound s) (running : (s.stream st).state ≠ .closed ∧ (s.stream st).state ≠ .draining)
    {b : BufferId} {signalled : Bool} {t : State} (h : publishInto st b signalled s = some t) : StreamsSound t := by
  obtain ⟨room, rfl⟩ | ⟨e, oldest, rfl⟩ := publishInto_cases st s h
  · exact streamsSound_append hs running (by simpa [Stream.full] using room) b signalled
  · have he := List.mem_of_find?_eq_some oldest
    obtain ⟨l, _, shorter, ends⟩ := dropEntry_stream he
    refine streamsSound_append (streamsSound_dropEntry hs he) ?_ ?_ b signalled
    · rw [ends.state]; exact running
    · rw [ends.list, ends.depth]; exact shorter.trans_le (hs st).list

theorem streamsSound_expireEntry (hs : StreamsSound s) {e : Entry} (he : e ∈ (s.stream st).list) :
    StreamsSound (expireEntry st e s) := by
  have removed : StreamsSound (s.modStream st fun x => { x with list := without x.list [e.buffer], expired := x.expired + 1 }) := by
    refine hs.modStream st fun h => ?_
    have thinned := Stream.Thins.sound (x' := { s.stream st with list := without (s.stream st).list [e.buffer] })
      ⟨rfl, List.filter_sublist, .inl rfl⟩ h
    exact { thinned with closed := fun hc => absurd hc (h.open_of_mem he) }
  unfold expireEntry
  extract_lets a
  refine (thins_settle st _).streamsSound ((follows_unlist _ _).streamsSound ?_)
  unfold noticeExpired
  extract_lets x t
  split
  · exact (follows_queueNoticeTo _ _ a).streamsSound removed
  · exact ((follows_queueNoticeTo _ _ a).trans (follows_queueNoticeTo _ _ t)).streamsSound removed

theorem streamsSound_flip (hs : StreamsSound s) {c : SlotId} (occupied : ((s.stream st).slot c).occupied = true) (e : Entry) :
    StreamsSound (flip st c e s) := by
  unfold flip
  extract_lets x marked held moved r
  have kept : marked.Follows held := (follows_addHold e.buffer marked).trans (follows_dropOld _ _)
  have slot : (held.stream st).slot c = (s.stream st).slot c := by
    rw [(kept.streams st).slot, show marked.stream st = _ from modStream_stream_same ..]
    rfl
  have sound : StreamsSound held := kept.streamsSound (hs.modStream st fun h => h.passUpTo occupied e.buffer)
  have flipped : StreamsSound moved := by
    refine sound.modStream st fun h => ?_
    have opened : (held.stream st).state ≠ .closed := fun hc => by
      simp [← slot, h.slot_of_closed hc, Slot.cleared] at occupied
    have moved := h.modSlot opened (c := c) (f := fun k =>
      { k with current := some e.buffer, currentSequence := some e.sequence, repeats := 0 }) (Nat.zero_le _) id
    exact { moved with closed := fun hc => absurd hc opened }
  exact (thins_settle st _).streamsSound ((follows_queueNoticeTo _ _ moved).streamsSound flipped)

theorem streamsSound_repeatFrame (hs : StreamsSound s) (opened : (s.stream st).state ≠ .closed) (c : SlotId) (b : BufferId) :
    StreamsSound (repeatFrame st c b s) := by
  unfold repeatFrame
  extract_lets t x k
  have counted : StreamsSound t :=
    hs.modStream st fun h => h.modSlot opened (Nat.min_le_left _ _) id
  split
  · refine (follows_queueNoticeTo _ _ _).streamsSound (counted.modStream st fun h => ?_)
    refine h.modSlot ?_ (h.repeats c) id
    rwa [show t.stream st = _ from modStream_stream_same ..]
  · exact counted

theorem streamsSound_takeBoundary (hs : StreamsSound s) (st : StreamId) (c : SlotId) : StreamsSound (takeBoundary st c s) := by
  unfold takeBoundary
  extract_lets x
  split
  next occupied =>
    have opened : (s.stream st).state ≠ .closed := fun hc => by
      have occupied : ((s.stream st).slot c).occupied = true := occupied
      simp [(hs st).slot_of_closed hc, Slot.cleared] at occupied
    repeat' split
    all_goals first
      | exact hs
      | exact streamsSound_flip hs occupied _
      | exact streamsSound_repeatFrame hs opened c _
  next => exact hs

theorem thins_noticeMemberLost (p : Port) (st : StreamId) (role : LostRole) (s : State) :
    s.Follows (noticeMemberLost p st role s) := by
  unfold noticeMemberLost
  extract_lets x n t
  have told : s.Follows t := follows_queueNotices _ _ s
  repeat' split
  · exact told
  · exact told.trans (follows_queueNotice _ _ _)
  · exact told

theorem streamsSound_roleParts (hs : StreamsSound s) (opened : (s.stream st).state ≠ .closed) (p : Port) :
    StreamsSound (roleParts p st s) := by
  unfold roleParts
  extract_lets x
  split
  · refine (thins_noticeMemberLost p st _ _).streamsSound ((thins_settle st _).streamsSound ?_)
    unfold producerPart
    extract_lets a sig b
    exact streamsSound_vacate hs opened (.refl st s)
      (((follows_releaseFillings st _).thins st).trans (thins_removeUnsignalled_if _ a st))
  · split
    next c _ =>
      refine (thins_noticeMemberLost p st _ _).streamsSound ((thins_settle st _).streamsSound ?_)
      exact (thins_removeUnsignalled_if _ _ st).streamsSound (streamsSound_clearSlot hs opened c)
    next =>
      split
      · exact ((thins_removeUnsignalled st s).trans (thins_settle st _)).streamsSound hs
      · exact hs

theorem streamsSound_streamStep (hs : StreamsSound s) (p : Port) (st : StreamId) : StreamsSound (streamStep p st s) := by
  unfold streamStep
  extract_lets x a b
  split
  · exact hs
  next opened =>
    split
    · exact hs
    · have parts : StreamsSound a := streamsSound_roleParts hs opened p
      refine streamsSound_drainTest ?_ st
      simp only [b]
      split
      · refine (follows_queueNotices _ _ _).streamsSound (parts.modStream st fun h => { h with closed := fun hc => ?_ })
        rw [h.closed hc]
        rfl
      · exact parts

theorem streamsSound_firstStage (hs : StreamsSound s) (p : Port) (tag : Option Byte) : StreamsSound (firstStage p tag s) := by
  rw [firstStage_eq]
  intro u
  have ends : (s.stream u).Ends ((s.withoutParked p).stream u) := by
    simp only [State.withoutParked, mapPools_stream, mapStreams_stream]
    split
    · exact .inr rfl
    · exact .inl rfl
  exact ends.sound (hs u)

/-- What a taken frame executes keeps the stream records sound. -/
theorem streamsSound_requestBody (hs : StreamsSound s) (name : RequestName) (p : Port) (tag : Byte) (payload : List Byte) :
    StreamsSound (requestBody name p tag payload s).1 := by
  have left {q : Served} (h : q.Leaves s) : StreamsSound q.1 := by
    obtain ⟨reply, rfl⟩ := h
    exact hs
  cases name <;> dsimp only [requestBody]
  case attach =>
    obtain h | ⟨lease, data, _, _, h⟩ := attachRequest_cases p payload s
    · exact left h
    · rw [h, okWith_fst]; exact hs
  case detach =>
    obtain h | h := detachRequest_cases p tag payload s
    · exact left h
    · rw [h]; dsimp only; exact streamsSound_firstStage hs p _
  case renew => exact left (renewRequest_cases p payload s)
  case setNoticeMask =>
    obtain h | ⟨mask, data, _, h⟩ := setNoticeMaskRequest_cases p payload s
    · exact left h
    · rw [h, okWith_fst]; exact hs
  case createPool =>
    obtain h | ⟨k, data, _, h⟩ := createPoolRequest_cases p payload s
    · exact left h
    · rw [h, okWith_fst]; exact hs
  case dissolvePool =>
    obtain h | ⟨k, _, h⟩ := dissolvePoolRequest_cases p payload s
    · exact left h
    · rw [h, okWith_fst, unregisterAll_eq]
      intro u
      simpa using hs u
  case claimPool =>
    obtain h | ⟨k, h⟩ := claimPoolRequest_cases p payload s
    · exact left h
    · rw [h, okWith_fst]; exact hs
  case registerBuffer =>
    obtain h | ⟨k, b, handle, layout, data, _, _, h⟩ := registerBufferRequest_cases p payload s
    · exact left h
    · rw [h, okWith_fst]; exact (follows_runArbiter k ((s.modBuffer b _).modPool k _)).streamsSound hs
  case retireBuffer =>
    obtain h | ⟨b, _, ⟨_, h⟩ | ⟨_, h⟩⟩ := retireBufferRequest_cases p payload s
    · exact left h
    · rw [h, okWith_fst]
      unfold retireFree
      split <;> exact hs
    · rw [h, okWith_fst]; exact hs
  case openStream =>
    obtain h | ⟨c, st, data, _, inRange, _, _, h⟩ := openStreamRequest_cases p payload s
    · exact left h
    · rw [h, okWith_fst]; exact hs.modStream st fun _ => sound_openedStream p inRange
  case configureStream =>
    obtain h | ⟨st, c, opened, passed, h⟩ := configureStreamRequest_cases p payload s
    · exact left h
    · rw [h, okWith_fst]; exact streamsSound_configure hs opened passed
  case closeStream =>
    obtain h | ⟨st, data, _, _, h⟩ := closeStreamRequest_cases p payload s
    · exact left h
    · rw [h, okWith_fst]; exact streamsSound_drainTest (streamsSound_closeStream hs st) st
  case claimStream =>
    obtain h | ⟨st, opened, h⟩ := claimStreamRequest_cases p payload s
    · exact left h
    · rw [h, okWith_fst]; exact hs.modStream st fun x => { x with closed := fun hc => absurd hc opened }
  case joinProducer =>
    obtain h | ⟨st, data, _, running, _, _, h⟩ := joinProducerRequest_cases p payload s
    · exact left h
    · rw [h, okWith_fst]
      exact hs.modStream st fun x => { x with closed := fun hc => (nomatch hc), producer := fun _ => .inl rfl, live := fun _ => rfl,
                                              draining := fun hd => (nomatch hd) }
  case leave =>
    obtain h | ⟨st, opened, ⟨_, h⟩ | ⟨c, _, h⟩⟩ := leaveRequest_cases p payload s
    · exact left h
    · rw [h, okWith_fst]; exact streamsSound_producerLeave hs opened
    · rw [h, okWith_fst]; exact streamsSound_consumerLeave hs opened c
  case acquire =>
    obtain h | ⟨st, opened, _, _, _, ⟨b, rest, data, _, h⟩ | ⟨wait, h⟩⟩ := acquireRequest_cases p tag payload s
    · exact left h
    · rw [h, okWith_fst]; exact hs
    · rw [h]
      have parked : StreamsSound (s.modStream st fun x =>
          { x with parked := some { tag := tag, remaining := wait * Config.unitsPerMs } }) :=
        hs.modStream st fun x => { x with closed := fun hc => absurd hc opened }
      exact parked
  case abandon =>
    obtain h | ⟨b, st, _, _, _, h⟩ := abandonRequest_cases p payload s
    · exact left h
    · rw [h, okWith_fst]; exact streamsSound_drainTest ((follows_release b s).streamsSound hs) st
  case publish =>
    obtain h | ⟨b, st, _, _, own, h | ⟨running, signalled, t, data, into, h⟩⟩ := publishRequest_cases p payload s
    · exact left h
    · rw [h, refuse_fst]; exact streamsSound_drainTest ((follows_release b s).streamsSound hs) st
    · rw [h, okWith_fst]; exact streamsSound_publishInto hs ⟨(hs st).open_of_producer own, running⟩ into
  case signal =>
    obtain h | ⟨b, st, e, data, _, _, entry, _, h⟩ := signalRequest_cases p payload s
    · exact left h
    · rw [h, okWith_fst]
      refine (thins_settle st _).streamsSound (hs.modStream st fun x => ?_)
      refine x.mapList (x.open_of_mem (List.mem_of_find?_eq_some entry)) fun e => ?_
      split <;> rfl
  case joinConsumer =>
    obtain h | ⟨st, c, source, threshold, data, opened, _, _, h⟩ := joinConsumerRequest_cases p payload s
    · exact left h
    · rw [h, okWith_fst]; exact hs.modStream st fun x => x.modSlot opened (Nat.zero_le _) fun ho => (nomatch ho)
  case retuneConsumer =>
    obtain h | ⟨st, c, source, threshold, opened, h⟩ := retuneConsumerRequest_cases p payload s
    · exact left h
    · rw [h, okWith_fst]
      have retuned : StreamsSound (s.modStream st fun x => x.modSlot c fun k => { k with source := source, threshold := threshold }) :=
        hs.modStream st fun x => x.modSlot opened (x.repeats c) id
      unfold retune
      extract_lets moved t
      split <;> exact retuned
  case ackStall =>
    obtain h | ⟨st, c, data, opened, h⟩ := ackStallRequest_cases p payload s
    · exact left h
    · rw [h, okWith_fst]; exact hs.modStream st fun x => x.modSlot opened (x.repeats c) id
  case startTimer =>
    obtain h | ⟨i, period, _, h⟩ := startTimerRequest_cases p payload s
    · exact left h
    · rw [h, okWith_fst]; exact hs
  case stopTimer =>
    obtain h | ⟨i, h⟩ := stopTimerRequest_cases p payload s
    · exact left h
    · rw [h, okWith_fst]; exact hs
  case claimTimer =>
    obtain h | ⟨i, h⟩ := claimTimerRequest_cases p payload s
    · exact left h
    · rw [h, okWith_fst]; exact hs
  case queryDevice =>
    obtain h | ⟨data, h⟩ := queryDeviceRequest_cases p payload s
    · exact left h
    · rw [h, okWith_fst]; exact hs
  case queryPort => exact left (queryPortRequest_cases payload s)
  case queryPool => exact left (queryPoolRequest_cases payload s)
  case queryStream =>
    obtain h | ⟨data, h⟩ := queryStreamRequest_cases payload s
    · exact left h
    · rw [h, okWith_fst]; exact hs
  case queryBuffer => exact left (queryBufferRequest_cases payload s)

end streamsSound

/-- The records that the link leaves alone: where a property does not read the port records, a taken frame keeps what its body keeps. -/
theorem executeRequest_of_portless {I : State → Prop} (portless : ∀ {s : State} {p : Port} {f : PortRecord → PortRecord}, I s → I (s.modPort p f))
    {s : State} {p : Port} {tag code check : Byte} (payload : List Byte)
    (body : ∀ name, codeOf name = code →
      I (requestBody name p tag payload (s.modPort p (takeFrame tag code check))).1) (hs : I s) :
    I (executeRequest p tag code check (frameBody p tag code payload) s) := by
  have body : I (frameBody p tag code payload (s.modPort p (takeFrame tag code check))).1 := by
    obtain ⟨name, hn, h⟩ | h := frameBody_cases p tag code payload
    · rw [h]; exact body name hn
    · rw [h]; exact portless hs
  refine executeRequest_cases (fun t reply h recorded => ?_) fun t h => ?_
  · rw [h] at body; exact portless (portless body)
  · rw [h] at body; exact body

theorem Stream.Sound.tick {x : Stream} (h : x.Sound) : x.tick.Sound := by
  by_cases hc : x.state = .closed
  · rw [h.closed hc]
    exact Stream.sound_cleared
  · have listed := h.mapList hc (f := Entry.tick) fun _ => rfl
    exact { listed with closed := fun hc' => absurd hc' hc }

theorem streamsSound_stepKeeps : StepKeeps (fun _ => True) StreamsSound where
  assumed _ _ := trivial
  neutral h hs st := by unfold State.stream; rw [h.streams]; exact hs st
  renewed p hs := hs
  taken {s p tag code check} payload _ hs _ :=
    executeRequest_of_portless (fun h => h) payload (fun name _ =>
      streamsSound_requestBody (s := s.modPort p (takeFrame tag code check)) hs name p tag payload) hs
  replayed hs _ := hs
  response p w hs := hs
  notice p w hs := hs
  timer i hs _ := hs
  boundary st c _ hs := streamsSound_takeBoundary hs st c
  wait st reply _ hs := (follows_completeParked st reply _).streamsSound hs
  deadline _ hs he := streamsSound_expireEntry hs he
  sweepBegins p tag _ hs _ := streamsSound_firstStage hs p tag
  streamStep _ hs _ := streamsSound_streamStep hs _ _
  advance p next hs := hs
  thirdStage p hs := hs
  fourthStage p tag _ hs _ := hs
  reset s st := by
    rw [show (resetRecords s).stream st = State.reset.stream st from rfl, reset_stream]
    exact Stream.sound_cleared
  time hs st := by
    rw [passTime_stream]
    exact (hs st).tick

/-- Settles O58: every kind of change keeps the stream records sound. -/
theorem stepKeepsStreamsSound : Obligations.StepKeepsStreamsSound :=
  fun _ _ hs _ ht => streamsSound_stepKeeps.step trivial hs ht

end Sys2Proof.Machine
end

section
/-!
PROOFS. The request windows stay sound (O59). While a frame is executed its port's window counts one request more than stands in a queue or is
parked: the one whose response is owed. The invariant is stated with that debt, and each operation is shown to keep it.
-/

namespace Sys2Proof.Machine

/-- The windows with a debt: the window of port `p` counts its queued responses, its parked requests, and `e p` more. A LAPSING port owes
nothing. -/
structure Windows (e : Port → Nat) (s : State) : Prop where
  window : ∀ p, (s.port p).state ≠ .lapsing → (s.port p).window = (s.port p).responses.length + s.parkedCount p + e p
  small : ∀ p, (s.port p).window ≤ 4
  lapsing : ∀ p, (s.port p).state = .lapsing → (s.port p).responses = [] ∧ (s.port p).window = 0 ∧ e p = 0
  parked : ∀ st, (s.stream st).parked.isSome = true → ∃ p, (s.stream st).producer = some p ∧ (s.port p).state = .attached

/-- Port `p` owes a response where `b`, and no other port does. -/
def owed (p : Port) (b : Bool) (q : Port) : Nat := if b = true ∧ q = p then 1 else 0

@[simp] theorem owed_false (p q : Port) : owed p false q = 0 := by simp [owed]
@[simp] theorem owed_self (p : Port) : owed p true p = 1 := by simp [owed]
theorem owed_of_ne {p q : Port} (h : q ≠ p) (b : Bool) : owed p b q = 0 := by simp [owed, h]

theorem windowsSound_iff {s : State} : WindowsSound s ↔ PortsSound s ∧ Windows (fun _ => 0) s :=
  ⟨fun h => ⟨h.ports, h.window, h.small, fun p hl => ⟨(h.lapsing p hl).1, (h.lapsing p hl).2, rfl⟩, h.parked⟩,
    fun ⟨ports, h⟩ => ⟨ports, h.window, h.small, fun p hl => ⟨(h.lapsing p hl).1, (h.lapsing p hl).2.1⟩, h.parked⟩⟩

section windows
variable {e : Port → Nat} {s t : State}

theorem Windows.parkedOwned (h : Windows e s) : s.ParkedOwned := fun st hp => by
  obtain ⟨p, hq, _⟩ := h.parked st hp
  simp [hq]

/-- A port that is not ATTACHED has no ACQUIRE parked. -/
theorem Windows.parkedCount_eq_zero (h : Windows e s) {p : Port} (unattached : (s.port p).state ≠ .attached) : s.parkedCount p = 0 := by
  refine List.countP_eq_zero.mpr fun st _ hp => unattached ?_
  simp only [State.isParked, Bool.and_eq_true, beq_iff_eq] at hp
  obtain ⟨q, hq, attached⟩ := h.parked st hp.2
  rw [hp.1] at hq
  rwa [Option.some.inj hq]

theorem Windows.unparked_of_producer (h : Windows e s) {st : StreamId} (unproduced : (s.stream st).producer = none) :
    (s.stream st).parked = none := by
  by_contra hp
  obtain ⟨p, hq, _⟩ := h.parked st (Option.isSome_iff_ne_none.mpr hp)
  rw [unproduced] at hq
  cases hq

/-! ### What keeps the windows -/

theorem parkedCount_congr {p : Port} (h : ∀ st, t.isParked p st = s.isParked p st) : t.parkedCount p = s.parkedCount p :=
  List.countP_congr fun st _ => by rw [h st]

/-- A change that keeps states, windows and queued responses of the ports, and which streams have an ACQUIRE parked and for whom. -/
theorem Windows.transfer (h : Windows e s)
    (ports : ∀ p, (t.port p).state = (s.port p).state ∧ (t.port p).window = (s.port p).window ∧
      (t.port p).responses = (s.port p).responses)
    (streams : ∀ st, (t.stream st).parked.isSome = (s.stream st).parked.isSome ∧
      ((s.stream st).parked.isSome = true → (t.stream st).producer = (s.stream st).producer)) : Windows e t := by
  have parked (p : Port) : t.parkedCount p = s.parkedCount p := parkedCount_congr fun st => by
    obtain ⟨some, producer⟩ := streams st
    unfold State.isParked
    rw [some]
    cases hs : (s.stream st).parked.isSome
    · simp
    · rw [producer hs]
  refine ⟨fun p => ?_, fun p => ?_, fun p => ?_, fun st => ?_⟩
  · obtain ⟨state, window, responses⟩ := ports p
    rw [state, window, responses, parked]
    exact h.window p
  · rw [(ports p).2.1]
    exact h.small p
  · obtain ⟨state, window, responses⟩ := ports p
    rw [state, window, responses]
    exact h.lapsing p
  · obtain ⟨some, producer⟩ := streams st
    intro hp
    rw [some] at hp
    obtain ⟨p, hq, attached⟩ := h.parked st hp
    exact ⟨p, (producer hp).trans hq, (ports p).1.trans attached⟩

theorem Windows.modStream (h : Windows e s) (st : StreamId) {f : Stream → Stream}
    (parked : (f (s.stream st)).parked.isSome = (s.stream st).parked.isSome)
    (producer : (s.stream st).parked.isSome = true → (f (s.stream st)).producer = (s.stream st).producer) :
    Windows e (s.modStream st f) := by
  refine h.transfer (fun _ => ⟨rfl, rfl, rfl⟩) fun u => ?_
  rw [modStream_stream]
  split
  next hu => subst hu; exact ⟨parked, producer⟩
  next => exact ⟨rfl, fun _ => rfl⟩

theorem Windows.modPort (h : Windows e s) (p : Port) {f : PortRecord → PortRecord} (state : (f (s.port p)).state = (s.port p).state)
    (window : (f (s.port p)).window = (s.port p).window) (responses : (f (s.port p)).responses = (s.port p).responses) :
    Windows e (s.modPort p f) := by
  refine h.transfer (fun q => ?_) fun _ => ⟨rfl, fun _ => rfl⟩
  rw [modPort_port]
  split
  next hq => subst hq; exact ⟨state, window, responses⟩
  next => exact ⟨rfl, rfl, rfl⟩

/-- Another window and other responses for one port that is not LAPSING, which owes what is left. -/
theorem Windows.modPort_debt {e' : Port → Nat} (h : Windows e s) {p : Port} {f : PortRecord → PortRecord}
    (awake : (s.port p).state ≠ .lapsing) (state : (f (s.port p)).state = (s.port p).state) (small : (f (s.port p)).window ≤ 4)
    (others : ∀ q, q ≠ p → e' q = e q)
    (window : (f (s.port p)).window = (f (s.port p)).responses.length + s.parkedCount p + e' p) : Windows e' (s.modPort p f) := by
  have same (q : Port) : (s.modPort p f).parkedCount q = s.parkedCount q := parkedCount_congr fun _ => rfl
  refine ⟨fun q => ?_, fun q => ?_, fun q hq => ?_, fun st hst => ?_⟩
  · rw [modPort_port, same]
    split
    next hq => subst hq; exact fun _ => window
    next hq => rw [others q hq]; exact h.window q
  · rw [modPort_port]
    split
    · exact small
    · exact h.small q
  · rw [modPort_port] at hq ⊢
    split_ifs at hq ⊢ with hqp
    · exact absurd (state.symm.trans hq) awake
    · rw [others q hqp]; exact h.lapsing q hq
  · obtain ⟨q, hq, attached⟩ := h.parked st hst
    refine ⟨q, hq, ?_⟩
    rw [modPort_port]
    split
    next hqp => subst hqp; exact state.trans attached
    next => exact attached

theorem State.Follows.windows (f : s.Follows t) (h : Windows e s) : Windows e t where
  window p hl := by
    rw [(f.ports p).state] at hl
    rw [(f.ports p).window, f.counted h.parkedOwned p]
    exact h.window p hl
  small p := by rw [(f.ports p).window]; exact h.small p
  lapsing p hl := by
    rw [(f.ports p).state] at hl
    obtain ⟨responses, window, debt⟩ := h.lapsing p hl
    have count := f.counted h.parkedOwned p
    rw [responses, h.parkedCount_eq_zero (by simp [hl])] at count
    refine ⟨List.eq_nil_of_length_eq_zero ?_, by rw [(f.ports p).window]; exact window, debt⟩
    simp only [List.length_nil, Nat.zero_add] at count
    omega
  parked st hp := by
    have ends := f.streams st
    rcases ends.parked with same | gone
    · obtain ⟨q, hq, attached⟩ := h.parked st (same ▸ hp)
      exact ⟨q, ends.producer.trans hq, (f.ports q).state.trans attached⟩
    · rw [gone] at hp; cases hp

/-! ### The operations on streams -/

theorem windows_removeEntries (h : Windows e s) (st : StreamId) (bs : List BufferId) : Windows e (removeEntries st bs s) :=
  (follows_removeEntries st bs s).windows (h.modStream st rfl fun _ => rfl)

theorem windows_settle (h : Windows e s) (st : StreamId) : Windows e (settle st s) := windows_removeEntries h st _

theorem windows_removeUnsignalled (h : Windows e s) (st : StreamId) : Windows e (removeUnsignalled st s) :=
  windows_removeEntries ((follows_chosen s).windows h) st _

theorem windows_removeUnsignalled_if (h : Windows e s) (st : StreamId) (q : Prop) [Decidable q] :
    Windows e (if q then removeUnsignalled st s else s) := by
  split
  · exact windows_removeUnsignalled h st
  · exact h

theorem windows_clearSlot (h : Windows e s) (st : StreamId) (c : SlotId) : Windows e (clearSlot st c s) :=
  (follows_clearSlot st c s).windows
    ((h.modStream st (f := fun x => x.withoutSlot c) rfl fun _ => rfl).transfer (fun _ => ⟨rfl, rfl, rfl⟩) fun _ => ⟨rfl, fun _ => rfl⟩)

theorem windows_drainTest (h : Windows e s) (st : StreamId) : Windows e (drainTest st s) := by
  obtain same | ⟨drained, n, cleared⟩ := drainTest_cases st s
  · rw [same]; exact h
  · have unparked : (s.stream st).parked = none := h.unparked_of_producer (drained_iff.mp drained).2.1
    have told := (follows_queueNoticeTo (s.stream st).owner n s).windows h
    rw [cleared]
    refine told.modStream st ?_ ?_ <;> simp [unparked, Stream.cleared]

theorem windows_closeStream (h : Windows e s) (st : StreamId) : Windows e (closeStream st s) :=
  (follows_queueNotices _ _ _).windows
    (windows_removeEntries ((follows_cancelParked st _).windows (h.modStream st rfl fun _ => rfl)) st _)

/-- The producer goes where nothing of its is parked; what follows of R35 and R147. -/
theorem windows_unproduced (h : Windows e s) {st : StreamId} (unparked : (s.stream st).parked = none) :
    Windows e (releaseFillings st (s.modStream st fun x => { x with producer := none })) :=
  (follows_releaseFillings st _).windows (h.modStream st rfl fun some => by simp [unparked] at some)

theorem windows_producerLeave (h : Windows e s) (st : StreamId) : Windows e (producerLeave st s) := by
  unfold producerLeave
  extract_lets a b c
  have released : Windows e b := windows_unproduced ((follows_cancelParked st s).windows h) (by simp [cancelParked_stream])
  exact windows_drainTest
    ((windows_settle (windows_removeUnsignalled_if released st _) st).modStream st rfl fun _ => rfl) st

theorem windows_consumerLeave (h : Windows e s) (st : StreamId) (c : SlotId) : Windows e (consumerLeave st c s) :=
  windows_drainTest (windows_settle (windows_clearSlot h st c) st) st

theorem windows_configure (h : Windows e s) (st : StreamId) (c : ConfigItems) : Windows e (configure st c s) := by
  unfold configure
  extract_lets x a b y
  have ended : Windows e a := by
    simp only [a]
    split
    · exact (follows_cancelParked st s).windows h
    · exact h
  have applied : Windows e b := ended.modStream st rfl fun _ => rfl
  split
  · exact (follows_runArbiter _ b).windows applied
  · exact applied

theorem windows_append (h : Windows e s) (st : StreamId) (b : BufferId) (signalled : Bool) : Windows e (append st b signalled s) :=
  windows_settle ((follows_modBuffer _ b _).windows (h.modStream st rfl fun _ => rfl)) st

theorem windows_publishInto (h : Windows e s) {st : StreamId} {b : BufferId} {signalled : Bool}
    (into : publishInto st b signalled s = some t) : Windows e t := by
  obtain ⟨_, rfl⟩ | ⟨d, _, rfl⟩ := publishInto_cases st s into
  · exact windows_append h st b signalled
  · refine windows_append ?_ st b signalled
    unfold dropEntry
    extract_lets u v
    have dropped : Windows e u := h.modStream st rfl fun _ => rfl
    refine (follows_unlist _ v).windows ?_
    simp only [v]
    split
    · exact dropped
    · exact (follows_queueNoticeTo _ _ u).windows dropped

theorem windows_expireEntry (h : Windows e s) (st : StreamId) (d : Entry) : Windows e (expireEntry st d s) := by
  unfold expireEntry
  extract_lets u
  have removed : Windows e u := h.modStream st rfl fun _ => rfl
  refine windows_settle ((follows_unlist _ _).windows ?_) st
  unfold noticeExpired
  extract_lets x v
  split
  · exact (follows_queueNoticeTo _ _ u).windows removed
  · exact ((follows_queueNoticeTo _ _ u).trans (follows_queueNoticeTo _ _ v)).windows removed

theorem windows_takeBoundary (h : Windows e s) (st : StreamId) (c : SlotId) : Windows e (takeBoundary st c s) := by
  have flipped (d : Entry) : Windows e (flip st c d s) := by
    unfold flip
    extract_lets x marked held moved r
    have kept : Windows e held := ((follows_addHold d.buffer marked).trans (follows_dropOld _ _)).windows (h.modStream st rfl fun _ => rfl)
    exact windows_settle ((follows_queueNoticeTo _ _ moved).windows (kept.modStream st rfl fun _ => rfl)) st
  have repeated (b : BufferId) : Windows e (repeatFrame st c b s) := by
    unfold repeatFrame
    extract_lets u x k
    have counted : Windows e u := h.modStream st rfl fun _ => rfl
    split
    · exact (follows_queueNoticeTo _ _ _).windows (counted.modStream st rfl fun _ => rfl)
    · exact counted
  unfold takeBoundary
  extract_lets x
  repeat' split
  all_goals first | exact h | exact flipped _ | exact repeated _

theorem windows_roleParts (h : Windows e s) {p : Port} (lapsing : (s.port p).state = .lapsing) (st : StreamId) :
    Windows e (roleParts p st s) := by
  unfold roleParts
  extract_lets x
  split
  next own =>
    have unparked : (s.stream st).parked = none := by
      by_contra hp
      obtain ⟨q, hq, attached⟩ := h.parked st (Option.isSome_iff_ne_none.mpr hp)
      rw [show (s.stream st).producer = some p from own] at hq
      rw [← Option.some.inj hq, lapsing] at attached
      cases attached
    refine (thins_noticeMemberLost p st _ _).windows (windows_settle ?_ st)
    unfold producerPart
    extract_lets a sig b
    exact (windows_removeUnsignalled_if (windows_unproduced h unparked) st _).modStream st rfl fun _ => rfl
  next =>
    split
    next c _ =>
      exact (thins_noticeMemberLost p st _ _).windows
        (windows_settle (windows_removeUnsignalled_if (windows_clearSlot h st c) st _) st)
    next =>
      split
      · exact windows_settle (windows_removeUnsignalled h st) st
      · exact h

theorem windows_streamStep (h : Windows e s) {p : Port} (lapsing : (s.port p).state = .lapsing) (st : StreamId) :
    Windows e (streamStep p st s) := by
  unfold streamStep
  extract_lets x a b
  split
  · exact h
  · split
    · exact h
    · have parts : Windows e a := windows_roleParts h lapsing st
      refine windows_drainTest ?_ st
      simp only [b]
      split
      · exact (follows_queueNotices _ _ _).windows (parts.modStream st rfl fun _ => rfl)
      · exact parts

/-! ### Sessions -/

/-- The first stage of a sweep: the port's debt, if it had one, is forgotten with its queue (R145). -/
theorem windows_firstStage {e' : Port → Nat} (h : Windows e s) {p : Port} (others : ∀ q, q ≠ p → e' q = e q) (own : e' p = 0)
    (tag : Option Byte) : Windows e' (firstStage p tag s) := by
  have stream (u : StreamId) : (firstStage p tag s).stream u =
      { s.stream u with parked := if (s.stream u).producer = some p then none else (s.stream u).parked } := by
    rw [firstStage_eq]
    simp [State.withoutParked]
  have port (q : Port) (hq : q ≠ p) : (firstStage p tag s).port q = s.port q := by
    rw [firstStage_eq, modPort_port_of_ne _ _ _ hq]
    simp [State.withoutParked]
  have record : ((firstStage p tag s).port p).state = .lapsing ∧ ((firstStage p tag s).port p).responses = [] ∧
      ((firstStage p tag s).port p).window = 0 := by
    rw [firstStage_eq, modPort_port_same]
    exact ⟨rfl, rfl, rfl⟩
  obtain ⟨lapsing, responses, window⟩ := record
  generalize firstStage p tag s = t at stream port lapsing responses window ⊢
  refine ⟨fun q hq => ?_, fun q => ?_, fun q hq => ?_, fun st hst => ?_⟩
  · have hqp : q ≠ p := fun hqp => hq (hqp ▸ lapsing)
    have count : t.parkedCount q = s.parkedCount q := parkedCount_congr fun st => by
      unfold State.isParked
      rw [stream]
      dsimp only
      split
      next produced => simp [produced, hqp.symm]
      next => rfl
    rw [port q hqp] at hq ⊢
    rw [count, others q hqp]
    exact h.window q hq
  · by_cases hqp : q = p
    · subst hqp; omega
    · rw [port q hqp]; exact h.small q
  · by_cases hqp : q = p
    · subst hqp; exact ⟨responses, window, own⟩
    · rw [port q hqp] at hq ⊢; rw [others q hqp]; exact h.lapsing q hq
  · rw [stream] at hst ⊢
    dsimp only at hst ⊢
    split_ifs at hst with produced
    · cases hst
    · obtain ⟨q, hq, attached⟩ := h.parked st hst
      have hqp : q ≠ p := fun hqp => produced (hqp ▸ hq)
      exact ⟨q, hq, by rw [port q hqp]; exact attached⟩

variable {p : Port}

/-- A session opens with a window of one: that of the ATTACH (R135). -/
theorem windows_attached (h : Windows (owed p true) s) (detached : (s.port p).state = .detached) (lease : Byte) :
    Windows (owed p true) (s.modPort p (PortRecord.attached lease)) := by
  have none : s.parkedCount p = 0 := h.parkedCount_eq_zero (by simp [detached])
  have count (q : Port) : (s.modPort p (PortRecord.attached lease)).parkedCount q = s.parkedCount q := parkedCount_congr fun _ => rfl
  have port (q : Port) (hq : q ≠ p) : (s.modPort p (PortRecord.attached lease)).port q = s.port q := modPort_port_of_ne _ _ _ hq
  have own : (s.modPort p (PortRecord.attached lease)).port p = (s.port p).attached lease := modPort_port_same ..
  refine ⟨fun q hq => ?_, fun q => ?_, fun q hq => ?_, fun st hst => ?_⟩
  · by_cases hqp : q = p
    · subst hqp; rw [own, count, none, owed_self]; rfl
    · rw [port q hqp] at hq ⊢; rw [count]; exact h.window q hq
  · by_cases hqp : q = p
    · subst hqp; rw [own]; exact Nat.le_of_ble_eq_true rfl
    · rw [port q hqp]; exact h.small q
  · by_cases hqp : q = p
    · subst hqp; rw [own] at hq; cases hq
    · rw [port q hqp] at hq ⊢; exact h.lapsing q hq
  · obtain ⟨q, hq, attached⟩ := h.parked st hst
    have hqp : q ≠ p := fun hqp => by rw [hqp, detached] at attached; cases attached
    exact ⟨q, hq, by rw [port q hqp]; exact attached⟩

/-- An ACQUIRE parks: the request that was owed a response is counted among the parked ones (R47). -/
theorem windows_park (h : Windows (owed p true) s) {st : StreamId} (attached : (s.port p).state = .attached)
    (produced : (s.stream st).producer = some p) (unparked : (s.stream st).parked = none) (tag : Byte) (wait : Nat) :
    Windows (owed p false) (park p tag st wait s) := by
  have port (q : Port) : ((park p tag st wait s).port q).state = (s.port q).state ∧
      ((park p tag st wait s).port q).window = (s.port q).window ∧ ((park p tag st wait s).port q).responses = (s.port q).responses := by
    simp only [park, modPort_port, modPool_port, modStream_port]
    split
    next hq => subst hq; exact ⟨rfl, rfl, rfl⟩
    next => exact ⟨rfl, rfl, rfl⟩
  have stream (u : StreamId) : (park p tag st wait s).stream u =
      if u = st then { s.stream st with parked := some { tag := tag, remaining := wait * Config.unitsPerMs } } else s.stream u := by
    simp only [park, modPort_stream, modPool_stream, modStream_stream]
  generalize park p tag st wait s = t at port stream ⊢
  have others (q : Port) (u : StreamId) (hu : u ≠ st) : t.isParked q u = s.isParked q u := by
    simp [State.isParked, stream, hu]
  have count (q : Port) : t.parkedCount q = s.parkedCount q + owed p true q := by
    have before : s.isParked q st = false := by simp [State.isParked, unparked]
    rw [State.parkedCount, ← countP_update allStreams_nodup (mem_allStreams st) (fun u hu => (others q u hu).symm) before]
    congr 1
    by_cases hqp : q = p
    · subst hqp; simp [State.isParked, stream, produced]
    · simp [State.isParked, stream, produced, owed_of_ne hqp, Ne.symm hqp]
  refine ⟨fun q hq => ?_, fun q => ?_, fun q hq => ?_, fun u hu => ?_⟩
  · obtain ⟨state, window, responses⟩ := port q
    rw [state] at hq
    rw [window, responses, count, owed_false, h.window q hq]
    omega
  · rw [(port q).2.1]; exact h.small q
  · obtain ⟨state, window, responses⟩ := port q
    rw [state] at hq
    obtain ⟨hr, hw, _⟩ := h.lapsing q hq
    exact ⟨responses.trans hr, window.trans hw, owed_false ..⟩
  · rw [stream] at hu ⊢
    split_ifs at hu ⊢ with hst
    · exact ⟨p, produced, (port p).1.trans attached⟩
    · obtain ⟨q, hq, own⟩ := h.parked u hu
      exact ⟨q, hq, (port q).1.trans own⟩

end windows

/-! ### Requests -/

/-- The state after a request, with what its port is still owed. -/
def Served.WindowsKept (p : Port) (q : Served) : Prop := Windows (owed p q.2.isSome) q.1

/-- What a taken frame executes keeps the windows: answered, its response is still owed; parked, it is counted. -/
theorem windows_requestBody {s : State} {p : Port} (hs : StreamsSound s) (h : Windows (owed p true) s) {name : RequestName}
    (from' : (s.port p).state = .attached ∨ (s.port p).state = .detached ∧ name ≠ .acquire) (tag : Byte) (payload : List Byte) :
    (requestBody name p tag payload s).WindowsKept p := by
  have left {q : Served} (hq : q.Leaves s) : q.WindowsKept p := by
    obtain ⟨reply, rfl⟩ := hq
    exact h
  have answered {q : Served} {data : List Byte} {t : State} (hq : q = okWith data t) (ht : Windows (owed p true) t) :
      q.WindowsKept p := by
    subst hq
    exact ht
  have parks {q : Served} {t : State} (hq : q = (t, none)) (ht : Windows (owed p false) t) : q.WindowsKept p := by
    subst hq
    exact ht
  have records {t : State} (ports : t.ports = s.ports) (streams : t.streams = s.streams) : Windows (owed p true) t :=
    h.transfer (fun q => by unfold State.port; rw [ports]; exact ⟨rfl, rfl, rfl⟩)
      fun u => by unfold State.stream; rw [streams]; exact ⟨rfl, fun _ => rfl⟩
  cases name <;> dsimp only [requestBody]
  case attach =>
    obtain hq | ⟨lease, data, unattached, _, hq⟩ := attachRequest_cases p payload s
    · exact left hq
    · exact answered hq (windows_attached h (by tauto) lease)
  case detach =>
    obtain hq | hq := detachRequest_cases p tag payload s
    · exact left hq
    · exact parks hq <| windows_firstStage h (fun q hqp => by rw [owed_of_ne hqp, owed_of_ne hqp]) (owed_false p p) _
  case renew => exact left (renewRequest_cases p payload s)
  case setNoticeMask =>
    obtain hq | ⟨mask, data, _, hq⟩ := setNoticeMaskRequest_cases p payload s
    · exact left hq
    · exact answered hq (h.modPort p rfl rfl rfl)
  case createPool =>
    obtain hq | ⟨k, data, _, hq⟩ := createPoolRequest_cases p payload s
    · exact left hq
    · exact answered hq (records rfl rfl)
  case dissolvePool =>
    obtain hq | ⟨k, _, hq⟩ := dissolvePoolRequest_cases p payload s
    · exact left hq
    · refine answered hq (h.transfer (fun q => ?_) fun u => ?_)
      · simp [unregisterAll_eq]
      · simp [unregisterAll_eq]
  case claimPool =>
    obtain hq | ⟨k, hq⟩ := claimPoolRequest_cases p payload s
    · exact left hq
    · exact answered hq (records rfl rfl)
  case registerBuffer =>
    obtain hq | ⟨k, b, handle, layout, data, _, _, hq⟩ := registerBufferRequest_cases p payload s
    · exact left hq
    · exact answered hq ((follows_runArbiter k _).windows (records rfl rfl))
  case retireBuffer =>
    obtain hq | ⟨b, _, ⟨_, hq⟩ | ⟨_, hq⟩⟩ := retireBufferRequest_cases p payload s
    · exact left hq
    · refine answered hq ?_
      unfold retireFree
      split <;> exact records rfl rfl
    · exact answered hq (records rfl rfl)
  case openStream =>
    obtain hq | ⟨c, st, data, _, _, _, closed, hq⟩ := openStreamRequest_cases p payload s
    · exact left hq
    · have unparked : (s.stream st).parked = none := by rw [(hs st).closed closed]; rfl
      exact answered hq (h.modStream st (by rw [unparked]; rfl) fun some => by simp [unparked] at some)
  case configureStream =>
    obtain hq | ⟨st, c, _, _, hq⟩ := configureStreamRequest_cases p payload s
    · exact left hq
    · exact answered hq (windows_configure h st c)
  case closeStream =>
    obtain hq | ⟨st, data, _, _, hq⟩ := closeStreamRequest_cases p payload s
    · exact left hq
    · exact answered hq (windows_drainTest (windows_closeStream h st) st)
  case claimStream =>
    obtain hq | ⟨st, _, hq⟩ := claimStreamRequest_cases p payload s
    · exact left hq
    · exact answered hq (h.modStream st rfl fun _ => rfl)
  case joinProducer =>
    obtain hq | ⟨st, data, _, _, unproduced, _, hq⟩ := joinProducerRequest_cases p payload s
    · exact left hq
    · have unparked := h.unparked_of_producer unproduced
      exact answered hq (h.modStream st rfl fun some => by simp [unparked] at some)
  case leave =>
    obtain hq | ⟨st, _, ⟨_, hq⟩ | ⟨c, _, hq⟩⟩ := leaveRequest_cases p payload s
    · exact left hq
    · exact answered hq (windows_producerLeave h st)
    · exact answered hq (windows_consumerLeave h st c)
  case acquire =>
    obtain hq | ⟨st, _, _, produced, unparked, ⟨b, rest, data, _, hq⟩ | ⟨wait, hq⟩⟩ := acquireRequest_cases p tag payload s
    · exact left hq
    · exact answered hq (records rfl rfl)
    · exact parks hq <| windows_park h (by tauto) produced unparked tag wait
  case abandon =>
    obtain hq | ⟨b, st, _, _, _, hq⟩ := abandonRequest_cases p payload s
    · exact left hq
    · exact answered hq (windows_drainTest ((follows_release b s).windows h) st)
  case publish =>
    obtain hq | ⟨b, st, _, _, _, hq | ⟨_, signalled, t, data, into, hq⟩⟩ := publishRequest_cases p payload s
    · exact left hq
    · rw [hq]
      exact windows_drainTest ((follows_release b s).windows h) st
    · exact answered hq (windows_publishInto h into)
  case signal =>
    obtain hq | ⟨b, st, d, data, _, _, _, _, hq⟩ := signalRequest_cases p payload s
    · exact left hq
    · exact answered hq (windows_settle (h.modStream st rfl fun _ => rfl) st)
  case joinConsumer =>
    obtain hq | ⟨st, c, source, threshold, data, _, _, _, hq⟩ := joinConsumerRequest_cases p payload s
    · exact left hq
    · exact answered hq (h.modStream st rfl fun _ => rfl)
  case retuneConsumer =>
    obtain hq | ⟨st, c, source, threshold, _, hq⟩ := retuneConsumerRequest_cases p payload s
    · exact left hq
    · have retuned : Windows (owed p true)
          (s.modStream st fun x => x.modSlot c fun k => { k with source := source, threshold := threshold }) :=
        h.modStream st rfl fun _ => rfl
      refine answered hq ?_
      unfold retune
      extract_lets moved t
      split
      · exact retuned.transfer (fun _ => ⟨rfl, rfl, rfl⟩) fun _ => ⟨rfl, fun _ => rfl⟩
      · exact retuned
  case ackStall =>
    obtain hq | ⟨st, c, data, _, hq⟩ := ackStallRequest_cases p payload s
    · exact left hq
    · exact answered hq (h.modStream st rfl fun _ => rfl)
  case startTimer =>
    obtain hq | ⟨i, period, _, hq⟩ := startTimerRequest_cases p payload s
    · exact left hq
    · exact answered hq (records rfl rfl)
  case stopTimer =>
    obtain hq | ⟨i, hq⟩ := stopTimerRequest_cases p payload s
    · exact left hq
    · exact answered hq (records rfl rfl)
  case claimTimer =>
    obtain hq | ⟨i, hq⟩ := claimTimerRequest_cases p payload s
    · exact left hq
    · exact answered hq (records rfl rfl)
  case queryDevice =>
    obtain hq | ⟨data, hq⟩ := queryDeviceRequest_cases p payload s
    · exact left hq
    · exact answered hq (records rfl rfl)
  case queryPort => exact left (queryPortRequest_cases payload s)
  case queryPool => exact left (queryPoolRequest_cases payload s)
  case queryStream =>
    obtain hq | ⟨data, hq⟩ := queryStreamRequest_cases payload s
    · exact left hq
    · exact answered hq (records rfl rfl)
  case queryBuffer => exact left (queryBufferRequest_cases payload s)

/-! ### The link -/

section link
variable {s : State} {p : Port}

/-- The taking of a frame: one place of the window, and a response owed (R157). -/
theorem windows_takeFrame (h : Windows (fun _ => 0) s) (awake : (s.port p).state ≠ .lapsing) (room : (s.port p).window < 4)
    (tag code check : Byte) : Windows (owed p true) (s.modPort p (takeFrame tag code check)) := by
  refine h.modPort_debt awake rfl room (fun q hq => owed_of_ne hq _) ?_
  rw [owed_self]
  exact congrArg (· + 1) (h.window p awake)

/-- The completion pays what is owed (R159). -/
theorem windows_completeRequest (h : Windows (owed p true) s) (recorded : Bool) (r : Response) :
    Windows (fun _ => 0) (completeRequest p recorded r s) := by
  have awake : (s.port p).state ≠ .lapsing := fun hl => by
    have := (h.lapsing p hl).2.2
    simp at this
  have queued : Windows (fun _ => 0) (queueResponse p r s) := by
    refine h.modPort_debt awake rfl (h.small p) (fun q hq => (owed_of_ne hq _).symm) ?_
    rw [h.window p awake, owed_self]
    simp only [List.length_append, List.length_singleton]
    omega
  exact queued.modPort p rfl rfl rfl

theorem windows_executeRequest {tag code check : Byte} (payload : List Byte) (hs : StreamsSound s) (h : Windows (fun _ => 0) s)
    (taken : (s.port p).judge tag code check = .taken) :
    Windows (fun _ => 0) (executeRequest p tag code check (frameBody p tag code payload) s) := by
  obtain ⟨awake, room, origin⟩ := judge_eq_taken taken
  have begun := windows_takeFrame h awake room tag code check
  have body : (frameBody p tag code payload (s.modPort p (takeFrame tag code check))).WindowsKept p := by
    obtain ⟨name, hn, hb⟩ | hb := frameBody_cases p tag code payload
    · rw [hb]
      refine windows_requestBody (s := s.modPort p (takeFrame tag code check)) hs begun ?_ tag payload
      rw [modPort_port_same]
      by_cases attached : (s.port p).state = .attached
      · exact .inl attached
      · refine .inr ⟨?_, fun hname => ?_⟩
        · show (s.port p).state = .detached
          cases hstate : (s.port p).state <;> simp_all
        · subst hn hname
          simp [attached, codeOf] at origin
    · rw [hb]; exact begun
  refine executeRequest_cases (fun t reply hb recorded => ?_) fun t hb => ?_
  · rw [hb] at body
    exact windows_completeRequest body recorded _
  · rw [hb] at body
    have paid : owed p false = fun _ => 0 := funext (owed_false p)
    exact paid ▸ body

/-- A replayed frame takes a place and queues the stored response (R164). -/
theorem windows_replayFrame {tag code check : Byte} (h : Windows (fun _ => 0) s)
    (replayed : (s.port p).judge tag code check = .replayed) : Windows (fun _ => 0) (replayFrame p tag code check s) := by
  obtain ⟨m, c, hm, hc, attached, room⟩ := judge_eq_replayed replayed
  have awake : (s.port p).state ≠ .lapsing := by simp [attached]
  refine h.modPort_debt awake rfl room (fun _ _ => rfl) ?_
  simp only [hm, Option.bind_some, hc, List.length_append, List.length_singleton, h.window p awake]
  omega

/-- A complete fetch takes the head and its place in the window (R161). -/
theorem windows_removeResponse (h : Windows (fun _ => 0) s) (p : Port) (w : Window) : Windows (fun _ => 0) (removeResponse p w s) := by
  unfold removeResponse
  cases hw : w.response with
  | none => exact h.modPort p rfl rfl rfl
  | some x =>
    cases hr : (s.port p).responses with
    | nil => refine h.modPort p ?_ ?_ ?_ <;> simp [hr]
    | cons y rest =>
      by_cases hxy : x = y
      · have awake : (s.port p).state ≠ .lapsing := fun hl => by
          have := (h.lapsing p hl).1
          simp [hr] at this
        have count := h.window p awake
        have small := h.small p
        refine h.modPort_debt awake ?_ ?_ (fun _ _ => rfl) ?_ <;> simp_all
        omega
      · refine h.modPort p ?_ ?_ ?_ <;> simp [hr, hxy]

theorem windows_removeNotice (h : Windows (fun _ => 0) s) (p : Port) (w : Window) : Windows (fun _ => 0) (removeNotice p w s) := by
  refine h.modPort p ?_ ?_ ?_
  all_goals
    split
    · split_ifs <;> rfl
    · rfl

/-- The fourth stage of a sweep leaves the port DETACHED, with the DETACH's response alone (R151). -/
theorem windows_swept (h : Windows (fun _ => 0) s) (lapsing : (s.port p).state = .lapsing) (tag : Option Byte) :
    Windows (fun _ => 0) (s.modPort p fun r => r.swept tag) := by
  obtain ⟨responses, window, _⟩ := h.lapsing p lapsing
  have none : s.parkedCount p = 0 := h.parkedCount_eq_zero (by simp [lapsing])
  have count (q : Port) : (s.modPort p fun r => r.swept tag).parkedCount q = s.parkedCount q := parkedCount_congr fun _ => rfl
  have own : ((s.port p).swept tag).state = .detached ∧ ((s.port p).swept tag).window = ((s.port p).swept tag).responses.length ∧
      ((s.port p).swept tag).window ≤ 4 := by
    cases tag <;> simp [PortRecord.swept, responses, window]
  obtain ⟨state, full, small⟩ := own
  refine ⟨fun q => ?_, fun q => ?_, fun q hq => ?_, fun st hst => ?_⟩
  · rw [modPort_port, count]
    split
    next hq => subst hq; exact fun _ => by rw [full, none]; rfl
    next => exact h.window q
  · rw [modPort_port]
    split
    · exact small
    · exact h.small q
  · rw [modPort_port] at hq ⊢
    split_ifs at hq ⊢
    · rw [state] at hq; cases hq
    · exact h.lapsing q hq
  · obtain ⟨q, hq, attached⟩ := h.parked st hst
    refine ⟨q, hq, ?_⟩
    rw [modPort_port]
    split
    next hqp => subst hqp; rw [lapsing] at attached; cases attached
    next => exact attached

end link

theorem windows_reset (s : State) : Windows (fun _ => 0) (resetRecords s) := by
  have port (p : Port) : (resetRecords s).port p = (s.port p).afterReset := get_mapBank ..
  have stream (st : StreamId) : (resetRecords s).stream st = Stream.cleared := reset_stream st
  have none (p : Port) : (resetRecords s).parkedCount p = 0 := List.countP_eq_zero.mpr fun st _ => by
    simp [State.isParked, stream, Stream.cleared]
  refine ⟨fun p _ => ?_, fun p => ?_, fun p hp => ?_, fun st hst => ?_⟩
  · rw [none, port]; rfl
  · rw [port]; exact Nat.zero_le _
  · rw [port] at hp; cases hp
  · rw [stream] at hst; cases hst

theorem windows_passTime {s : State} (h : Windows (fun _ => 0) s) : Windows (fun _ => 0) (passTime s) :=
  h.transfer (fun p => by rw [passTime_port]; exact ⟨rfl, rfl, rfl⟩)
    fun st => by rw [passTime_stream]; exact ⟨Option.isSome_map .., fun _ => rfl⟩

theorem windows_stepKeeps : StepKeeps StreamsSound (Windows fun _ => 0) where
  assumed h hs := streamsSound_stepKeeps.neutral h hs
  neutral {s t} h hw := by
    refine hw.transfer (fun p => ?_) fun st => ?_
    · rw [h.ports p]; exact ⟨rfl, rfl, rfl⟩
    · unfold State.stream; rw [h.streams]; exact ⟨rfl, fun _ => rfl⟩
  renewed p hw := by
    refine hw.modPort p ?_ ?_ ?_ <;> split <;> rfl
  taken payload hs hw taken := windows_executeRequest payload hs hw taken
  replayed hw replayed := windows_replayFrame hw replayed
  response p w hw := windows_removeResponse hw p w
  notice p w hw := windows_removeNotice hw p w
  timer i hw _ := hw.transfer (fun _ => ⟨rfl, rfl, rfl⟩) fun _ => ⟨rfl, fun _ => rfl⟩
  boundary st c _ hw := windows_takeBoundary hw st c
  wait st reply _ hw := (follows_completeParked st reply _).windows hw
  deadline _ hw _ := windows_expireEntry hw _ _
  sweepBegins p tag _ hw _ := windows_firstStage hw (fun _ _ => rfl) rfl tag
  streamStep _ hw due := windows_streamStep hw due.1 _
  advance p next hw := hw.modPort p rfl rfl rfl
  thirdStage p hw := hw.transfer (fun _ => ⟨rfl, rfl, rfl⟩) fun _ => ⟨rfl, fun _ => rfl⟩
  fourthStage p tag _ hw lapsing := windows_swept hw lapsing tag
  reset s := windows_reset s
  time hw := windows_passTime hw

/-- Settles O59: every kind of change keeps the windows, and the port records are sound by O57. -/
theorem stepKeepsWindowsSound : Obligations.StepKeepsWindowsSound := by
  intro s t hs hw _ ht
  obtain ⟨ports, windows⟩ := windowsSound_iff.mp hw
  exact windowsSound_iff.mpr ⟨stepKeepsPortsSound s t ports ht, windows_stepKeeps.step hs windows ht⟩

end Sys2Proof.Machine
end

section
/-!
PROOFS. The queue of commands and reset: what a step does with the command at the front and on an empty queue, the rows of
spec/10_the_master_port_link.md 10.9, and the invariants of the reset state.
-/

namespace Sys2Proof.Machine

/-! ### The queue of commands -/

/-- Settles O1: an unfolding of the step on a queue that is not empty. -/
theorem stepRunsFrontCommand : Obligations.StepRunsFrontCommand := by
  intro c rest s h
  simp only [step, h]

theorem step_of_idle {s : State} (h : s.pending = []) : step s = .next (idle s) := by
  simp only [step, h]

theorem idle_of_resetting {s : State} (h : s.phase = .resetting) : idle s = s := by
  simp only [idle, h]

theorem idle_of_recovering {s : State} (h : s.phase = .recovering) : idle s = { s with pending := [.recoveryEnd] } := by
  simp only [idle, h]

theorem idle_of_due {s : State} (h : s.phase = .serving) (due : s.dueNow ≠ []) : idle s = { s with pending := s.dueNow } := by
  obtain ⟨c, rest, hd⟩ := List.exists_cons_of_ne_nil due
  simp only [idle, h, hd]

theorem idle_of_none_due {s : State} (h : s.phase = .serving) (none : s.dueNow = []) :
    idle s = { passTime s with pending := (passTime s).expiriesDue } := by
  simp only [idle, h, none]

/-- The next steps of the sweeps under way, by the state and the sweep of each port. -/
theorem sweepsDue_eq (s : State) : allPorts.flatMap s.sweepDue = (List.finRange 4).flatMap fun p =>
    match (s.port p).state, (s.port p).sweep with
    | .lapsing, some ⟨.stream st, _⟩ => [.streamStep p st]
    | .lapsing, some ⟨.thirdStage, _⟩ => [.sweepThirdStage p]
    | .lapsing, some ⟨.fourthStage, _⟩ => [.sweepFourthStage p]
    | _, _ => [] := by
  rw [allPorts_eq]
  congr 1
  funext p
  unfold State.sweepDue
  cases (s.port p).state with
  | detached => rfl
  | attached => rfl
  | lapsing =>
    cases (s.port p).sweep with
    | none => rfl
    | some w => obtain ⟨step, tag⟩ := w; cases step <;> rfl

/-- Settles O2, by the phase of the part and, while it serves, by whether an event is due. -/
theorem stepOnEmptyQueueIdles : Obligations.StepOnEmptyQueueIdles := by
  intro s empty due
  have due_eq : due = s.dueNow := congrArg _ (sweepsDue_eq s).symm
  rw [step_of_idle empty, due_eq]
  refine ⟨fun h => by rw [idle_of_resetting h], fun h => by rw [idle_of_recovering h],
    fun h some => by rw [idle_of_due h some], fun h none => ?_⟩
  rw [idle_of_none_due h none]
  refine ⟨_, rfl, rfl, passTime_timer s, passTime_stream s, passTime_port s, ?_⟩
  show (passTime s).expiriesDue = _
  rw [State.expiriesDue, allTimers_eq, allStreams_eq, allPorts_eq]
  rfl

/-! ### Reset (R183, R184) -/

section resetRecords
variable (s : State)

theorem resetRecords_buffer (b : BufferId) : (resetRecords s).buffer b = Buffer.reset := reset_buffer b
theorem resetRecords_pool (k : PoolId) : (resetRecords s).pool k = Pool.reset := reset_pool k
theorem resetRecords_stream (st : StreamId) : (resetRecords s).stream st = Stream.cleared := reset_stream st
theorem resetRecords_timer (i : TimerId) : (resetRecords s).timer i = Timer.reset := reset_timer i
theorem resetRecords_port (p : Port) : (resetRecords s).port p = (s.port p).afterReset := get_mapBank ..

end resetRecords

theorem atn_of_not_serving {s : State} (h : s.phase ≠ .serving) (p : Port) : s.atn p = .high := by
  simp [State.atn, h]

theorem atn_of_serving {s : State} (h : s.phase = .serving) (p : Port) :
    s.atn p = .low ↔ (s.port p).responses ≠ [] ∨ (s.port p).notices ≠ [] := by
  have : ¬ ((s.port p).responses = [] ∧ (s.port p).notices = []) ↔ (s.port p).responses ≠ [] ∨ (s.port p).notices ≠ [] :=
    not_and_or
  rw [← this]
  simp only [State.atn, h, beq_self_eq_true, Bool.true_and]
  change (if (!(s.port p).responses.isEmpty || !(s.port p).notices.isEmpty) = true then Level.low else Level.high) = .low ↔ _
  split <;> simp_all

/-- Settles O3: both causes reset the records alike and differ in the two lines alone. -/
theorem deviceResetClearsRecords : Obligations.DeviceResetClearsRecords := by
  intro cause s
  cases cause with
  | pin =>
    refine ⟨_, rfl, resetRecords_buffer s, resetRecords_pool s, resetRecords_stream s, resetRecords_port s,
      fun p => atn_of_not_serving (by rintro ⟨⟩) p, rfl, rfl, fun _ => ⟨rfl, rfl⟩, (fun _ h => nomatch h), rfl, rfl⟩
  | powerUp level =>
    refine ⟨_, rfl, resetRecords_buffer s, resetRecords_pool s, resetRecords_stream s, resetRecords_port s,
      fun p => atn_of_not_serving (by rintro ⟨⟩) p, rfl, rfl, (fun h => nomatch h), ?_, rfl, rfl⟩
    rintro _ ⟨⟩
    exact ⟨rfl, rfl⟩

/-- Settles O4: the timers are among the records that a reset from either cause clears. -/
theorem deviceResetStopsTimers : Obligations.DeviceResetStopsTimers := by
  rintro (_ | level) s
  · exact ⟨_, rfl, resetRecords_timer s⟩
  · exact ⟨_, rfl, resetRecords_timer s⟩

theorem endReset_of_over {s : State} (phase : s.phase = .resetting) (high : s.resetN = .high) (good : s.supplies = true) :
    endReset s = { s with phase := .recovering, ports := mapBank (fun r => { r with bnd := .low }) s.ports } :=
  if_pos ⟨phase, high, good⟩

theorem endReset_of_not_over {s : State} (h : ¬ (s.phase = .resetting ∧ s.resetN = .high ∧ s.supplies = true)) : endReset s = s :=
  if_neg h

/-- Settles O5: a reset ends at the second of its two conditions, whichever row brings it, and at no other row. -/
theorem resetEndsThroughRecovery : Obligations.ResetEndsThroughRecovery := by
  intro s
  refine ⟨fun phase good => ?_, fun phase bad => ?_, fun phase high => ?_, fun phase low => ?_, fun phase => ?_,
    fun phase => ⟨?_, ?_⟩, fun phase => ?_, fun p h => atn_of_not_serving h p, fun p h => atn_of_serving h p⟩
  · refine ⟨_, rfl, ?_⟩
    rw [endReset_of_over (s := { s with resetN := .high }) phase rfl good]
    exact ⟨rfl, fun p => get_mapBank ..⟩
  · exact congrArg _ (endReset_of_not_over (s := { s with resetN := .high }) (by simp [bad]))
  · refine ⟨_, rfl, ?_⟩
    rw [endReset_of_over (s := { s with supplies := true }) phase high rfl]
    exact ⟨rfl, fun p => get_mapBank ..⟩
  · exact congrArg _ (endReset_of_not_over (s := { s with supplies := true }) (by simp [low]))
  · exact congrArg _ (if_pos phase)
  · exact congrArg _ (endReset_of_not_over (s := { s with resetN := .high }) (by simp [phase]))
  · exact congrArg _ (endReset_of_not_over (s := { s with supplies := true }) (by simp [phase]))
  · exact congrArg _ (if_neg phase)

/-- A port record without an open transaction comes out of reset and recovery as it is in the reset state. -/
theorem afterReset_of_high {r : PortRecord} (h : r.select = .high) : { r.afterReset with bnd := .low } = PortRecord.reset := by
  simp [PortRecord.afterReset, h, PortRecord.reset]

/-- Settles O6: the pulse clears the records, its release begins the recovery, and the port records, without an open transaction, are then
those of the reset state. -/
theorem resetPulseGivesResetState : Obligations.ResetPulseGivesResetState := by
  intro s good closed
  let released : State := { resetRecords s with resetN := .high }
  have ended : endReset released = _ := endReset_of_over rfl rfl good
  refine ⟨{ resetRecords s with resetN := .low }, endReset released, rfl, rfl, ?_⟩
  rw [ended]
  refine congrArg Host.Outcome.next ((if_pos rfl).trans ?_)
  refine state_ext (fun _ => rfl) (fun _ => rfl) (fun _ => rfl) (fun _ => rfl) (fun p => ?_) rfl rfl rfl good rfl rfl
  refine (get_mapBank (fun r : PortRecord => { r with bnd := .low }) (resetRecords s).ports p).trans ?_
  calc
    _ = { (s.port p).afterReset with bnd := .low } := congrArg (fun r : PortRecord => { r with bnd := .low }) (resetRecords_port s p)
    _ = State.reset.port p := (afterReset_of_high (closed p)).trans (reset_port p).symm

/-! ### The invariants of the reset state -/

theorem reset_parkedCount (p : Port) : State.reset.parkedCount p = 0 := by
  simp [State.parkedCount, State.isParked, List.countP_eq_zero, Stream.cleared]

theorem cleared_slot (c : SlotId) : Stream.cleared.slot c = Slot.cleared := by
  revert c
  decide

theorem windowsSound_reset : WindowsSound State.reset where
  ports p := by rw [reset_port]; exact PortRecord.sound_reset
  window p _ := by simp [reset_parkedCount, PortRecord.reset]
  small p := by simp [PortRecord.reset]
  lapsing p := by simp [PortRecord.reset]
  parked st := by simp [Stream.cleared]

/-- Nothing is bound, listed, shown or queued in the reset state, so every clause speaks of VACANT records and cleared streams alone. -/
theorem tablesSound_reset : TablesSound State.reset where
  free := by simp [Pool.reset, Buffer.reset]
  freeOnce := by simp [Pool.reset]
  pool := by simp [Buffer.reset]
  active := by simp [Buffer.reset]
  bound := by simp [Buffer.reset, BufferState.inUse]
  named := by simp [Buffer.reset]
  names := by simp [Stream.cleared]
  retiring := by simp [Buffer.reset]
  registered := by simp [Pool.reset, Buffer.reset]
  published := by simp [State.listed, Stream.cleared, Buffer.reset]
  listedOnce := by simp [Stream.cleared]
  holds := by simp [Buffer.reset]
  unbound := by simp [Buffer.reset]
  current := by simp [State.shows, cleared_slot, Slot.cleared]
  held := by simp [Buffer.reset]
  filling := by simp [Buffer.reset]
  wait := by simp [Pool.reset, Stream.cleared]
  waitOnce := by simp [Pool.reset]
  unsignalled := by simp [Stream.cleared]
  roles := by simp [cleared_slot, Slot.cleared]
  slotsOnce := by simp [cleared_slot, Slot.cleared]
  timer := by simp [Timer.reset]
  period := by simp [Timer.reset]

/-- Settles O56. -/
theorem resetStateIsSound : Obligations.ResetStateIsSound :=
  ⟨windowsSound_reset.ports, fun st => by rw [reset_stream]; exact Stream.sound_cleared, windowsSound_reset, tablesSound_reset⟩

end Sys2Proof.Machine
end

section
/-!
PROOFS. The windows of select of spec/10_the_master_port_link.md: void windows, the fall of select, STATUS and unknown windows, and the
two fetches.
-/

namespace Sys2Proof.Machine

/-! ### Void windows (R175, R184) -/

/-- Settles O7: every transaction row is a `transaction`, whatever its effect. -/
theorem voidWindowChangesNothing : Obligations.VoidWindowChangesNothing := by
  intro s p h
  have void (out : Window → List Byte) (effect : Window → State → State) := transaction_void h out effect
  refine ⟨fun name tag payload => ?_, fun bytes => congrArg _ (void _ _), fun n => congrArg _ (void _ _),
    fun n => congrArg _ (void _ _), fun n => congrArg _ (void _ _), fun first more => ?_⟩
  · rw [exec_requestRow]
    exact congrArg _ (void _ _)
  · refine congrArg Host.Outcome.next ?_
    unfold byteWindow
    split <;> exact void _ _

/-! ### The fall of select (R175, Table 10-2) -/

/-- The bits of a status byte, from its four conditions and its frame result. -/
theorem statusBits (a l r n : Bool) (f : FrameResult) :
    let v : Byte := bit 7 a ||| bit 6 l ||| bit 5 r ||| bit 4 n ||| f.code
    v.getLsbD 7 = a ∧ v.getLsbD 6 = l ∧ v.getLsbD 5 = r ∧ v.getLsbD 4 = n ∧ v &&& 0x0F = f.code := by
  cases f <;> revert a l r n <;> decide

theorem not_isEmpty_iff {α : Type} (l : List α) : (!l.isEmpty) = true ↔ l ≠ [] := by
  cases l <;> simp

theorem fallOfSelect_serving {s : State} (h : s.phase = .serving) (p : Port) :
    fallOfSelect p false s = s.modPort p fun r =>
      { r with select := .low { status := r.statusByte, response := r.responses.head?, notice := r.notices.head? } } := by
  simp [fallOfSelect, h]

theorem fallOfSelect_void {s : State} {tooSoon : Bool} (h : tooSoon = true ∨ s.phase ≠ .serving) (p : Port) :
    fallOfSelect p tooSoon s = s.modPort p fun r => { r with select := .void } := by
  have : ¬ (tooSoon = false ∧ s.phase = .serving) := by
    rintro ⟨rfl, hs⟩
    simp [hs] at h
  simp only [fallOfSelect, this, if_false]

/-- Settles O8, with the port's status byte for `v`. -/
theorem fallOfSelectFixesWindow : Obligations.FallOfSelectFixesWindow := by
  intro s p
  refine ⟨fun serving => ?_, rfl, fun tooSoon h => congrArg _ (fallOfSelect_void h p)⟩
  obtain ⟨b7, b6, b5, b4, low⟩ := statusBits ((s.port p).state == .attached) ((s.port p).state == .lapsing)
    (!(s.port p).responses.isEmpty) (!(s.port p).notices.isEmpty) (s.port p).lastFrame
  refine ⟨(s.port p).statusByte, congrArg _ ((fallOfSelect_serving serving p).trans (modPort_congr _ _ _ rfl)), ?_, ?_, ?_, ?_, low⟩
  · exact (Bool.eq_iff_iff.mp b7).trans beq_iff_eq
  · exact (Bool.eq_iff_iff.mp b6).trans beq_iff_eq
  · exact (Bool.eq_iff_iff.mp b5).trans (not_isEmpty_iff _)
  · exact (Bool.eq_iff_iff.mp b4).trans (not_isEmpty_iff _)

/-! ### Transactions that change their port alone -/

section served
variable {s : State} {p : Port} (served : s.serves p = true)
include served

/-- A transaction whose effect changes its port's record, but not by its select, and renews no lease. -/
theorem transaction_shuts {out : Window → List Byte} {effect : Window → State → State} {f : PortRecord → PortRecord}
    (heff : effect (s.window p) (s.opened p) = (s.opened p).modPort p f)
    (hf : ∀ r x y, { f { r with select := x } with select := .high, shifted := y } = { f r with select := .high, shifted := y }) :
    transaction p out effect s = (s.modPort p f).shuts p (out (s.window p)) := by
  rw [transaction_served served, heff]
  simp only [State.shuts, State.opened, modPort_modPort]
  exact modPort_congr _ _ _ (hf _ _ _)

/-- As `transaction_shuts`, the lease of an ATTACHED port renewed at the end (R139). -/
theorem transaction_closes {out : Window → List Byte} {effect : Window → State → State} {f : PortRecord → PortRecord}
    (heff : effect (s.window p) (s.opened p) = renewLease p ((s.opened p).modPort p f))
    (hf : ∀ r x, f { r with select := x } = { f r with select := x }) :
    transaction p out effect s = (s.modPort p f).closes p (out (s.window p)) := by
  rw [transaction_served served, heff]
  simp only [State.closes, State.shuts, State.opened, renewLease, modPort_modPort]
  refine modPort_congr _ _ _ ?_
  rw [hf]
  by_cases attached : (f (s.port p)).state = .attached <;>
    simp [attached, PortRecord.fullLease, Config.unitsPerLeaseUnit]

/-- A window that the link rejects: its frame result recorded and counted. -/
theorem transaction_linkError {out : Window → List Byte} {effect : Window → State → State} (result : FrameResult)
    (heff : ∀ w t, effect w t = linkError p result t) :
    transaction p out effect s =
      (s.modPort p fun r => { r with lastFrame := result, frameErrors := r.frameErrors + 1 }).shuts p (out (s.window p)) :=
  transaction_shuts served (heff _ _) fun _ _ _ => rfl

theorem statusWindow_eq (n : Nat) : statusWindow p n s = s.closes p (s.shiftsOut p n) := by
  have := transaction_closes served (out := statusThen n) (effect := fun _ t => renewLease p t) (f := id)
    (congrArg _ (modPort_eq_self _ _ _ rfl).symm) fun _ _ => rfl
  rwa [modPort_eq_self s p id rfl] at this

end served

/-! ### STATUS and unknown windows (R175, R180) -/

/-- Settles O15: the first byte selects the window, and an unknown one the link's error. -/
theorem statusAndUnknownTransactions : Obligations.StatusAndUnknownTransactions := by
  refine fun s p => ⟨fun more => ⟨rfl, rfl, rfl, rfl⟩, fun served => ⟨fun n => congrArg _ (statusWindow_eq served n),
    fun first more unknown => congrArg Host.Outcome.next ?_⟩⟩
  have none : transactionOf first = none := transactionOf_eq_none.mpr unknown
  unfold byteWindow
  rw [none]
  exact transaction_linkError served .badTransaction fun _ _ => rfl

/-! ### The fetches (R125 to R129, R161, R180) -/

section fetch
variable {s : State} {p : Port} (served : s.serves p = true) {n : Nat}
include served

theorem fetchResponseWindow_partial (short : n < 24) :
    fetchResponseWindow p n s = s.shuts p ((s.window p).status :: shiftRecord (s.window p).responseBytes n) := by
  have := transaction_shuts served (out := fun w => w.status :: shiftRecord w.responseBytes n) (f := id)
    (effect := fun w t => if n < Config.recordBytes then t else renewLease p (removeResponse p w t))
    ((if_pos short).trans (modPort_eq_self _ _ _ rfl).symm) fun _ _ _ => rfl
  rwa [modPort_eq_self s p id rfl] at this

/-- A complete fetch that finds `g` of the port's record after the removal. -/
theorem fetchResponseWindow_complete (complete : 24 ≤ n) {g : PortRecord → PortRecord}
    (hg : ∀ r x, g { r with select := x } = { g r with select := x })
    (found : ∀ x, removeResponse p (s.window p) (s.modPort p fun r => { r with select := x }) =
      (s.modPort p fun r => { r with select := x }).modPort p g) :
    fetchResponseWindow p n s = (s.modPort p g).closes p ((s.window p).status :: shiftRecord (s.window p).responseBytes n) :=
  transaction_closes served (effect := fun w t => if n < Config.recordBytes then t else renewLease p (removeResponse p w t))
    ((if_neg (Nat.not_lt.mpr complete)).trans (congrArg _ (found _))) hg

theorem fetchNoticeWindow_partial (short : n < 24) :
    fetchNoticeWindow p n s = s.shuts p ((s.window p).status :: shiftRecord (s.window p).noticeBytes n) := by
  have := transaction_shuts served (out := fun w => w.status :: shiftRecord w.noticeBytes n) (f := id)
    (effect := fun w t => if n < Config.recordBytes then t else renewLease p (removeNotice p w t))
    ((if_pos short).trans (modPort_eq_self _ _ _ rfl).symm) fun _ _ _ => rfl
  rwa [modPort_eq_self s p id rfl] at this

/-- A complete fetch that finds `g` of the port's record after the removal. -/
theorem fetchNoticeWindow_complete (complete : 24 ≤ n) {g : PortRecord → PortRecord}
    (hg : ∀ r x, g { r with select := x } = { g r with select := x })
    (found : ∀ x, removeNotice p (s.window p) (s.modPort p fun r => { r with select := x }) =
      (s.modPort p fun r => { r with select := x }).modPort p g) :
    fetchNoticeWindow p n s = (s.modPort p g).closes p ((s.window p).status :: shiftRecord (s.window p).noticeBytes n) :=
  transaction_closes served (effect := fun w t => if n < Config.recordBytes then t else renewLease p (removeNotice p w t))
    ((if_neg (Nat.not_lt.mpr complete)).trans (congrArg _ (found _))) hg

end fetch

/-- Filling beyond the cut is not seen. -/
theorem take_append_replicate {α : Type} {l : List α} {a : α} {n m k : Nat} (enough : n ≤ l.length + m) (more : m ≤ k) :
    (l ++ List.replicate k a).take n = (l ++ List.replicate m a).take n := by
  simp only [List.take_append, List.take_replicate]
  congr 2
  omega

/-- The record presented, its data filled with zeros (Table 10-7a). -/
theorem responseBytes_eq (w : Window) : w.responseBytes = match w.response with
    | some r => (r.tag :: r.code :: r.result.code :: (r.data ++ List.replicate 21 0)).take 24
    | none => 0 :: 0 :: 0xFF :: List.replicate 21 0 := by
  unfold Window.responseBytes
  cases w.response with
  | none => rfl
  | some r => exact take_append_replicate (l := r.tag :: r.code :: r.result.code :: r.data) (by simp [Config.recordBytes]) (by decide)

theorem removeResponse_head {s : State} {p : Port} {w : Window} {x : Response} {rest : List Response} (presented : w.response = some x)
    (head : (s.port p).responses = x :: rest) :
    removeResponse p w s = s.modPort p fun r => { r with responses := rest, window := r.window - 1 } :=
  modPort_congr _ _ _ (by simp [presented, head])

theorem removeResponse_none {s : State} {p : Port} {w : Window} (h : w.response = none ∨ (s.port p).responses = []) :
    removeResponse p w s = s :=
  modPort_eq_self _ _ _ (by rcases h with h | h <;> simp [h])

theorem removeNotice_head {s : State} {p : Port} {w : Window} {x : Notice} {rest : List Notice} (presented : w.notice = some x)
    (head : (s.port p).notices = x :: rest) :
    removeNotice p w s = s.modPort p fun r =>
      if r.lost = 0 then { r with notices := rest } else { r with notices := rest ++ [.overflow r.lost], lost := 0 } :=
  modPort_congr _ _ _ (by simp [presented, head])

theorem removeNotice_none {s : State} {p : Port} {w : Window} (h : w.notice = none ∨ (s.port p).notices = []) :
    removeNotice p w s = s :=
  modPort_eq_self _ _ _ (by rcases h with h | h <;> simp [h])

/-- Settles O16: the record presented is the window's, and whether it is removed turns on the count of bytes and on the head. -/
theorem fetchResponseRemovesPresentedHead : Obligations.FetchResponseRemovesPresentedHead := by
  intro s p n served
  refine ⟨_, congrArg (fun record => (s.window p).status :: shiftRecord record n) (responseBytes_eq (s.window p)), rfl,
    fun short => ?_, fun x rest complete presented head => ?_, fun complete h => ?_⟩
  · exact congrArg _ (fetchResponseWindow_partial served short)
  · exact congrArg _ (fetchResponseWindow_complete served complete (fun _ _ => rfl) fun _ =>
      removeResponse_head presented (by simpa using head))
  · have := fetchResponseWindow_complete served complete (g := id) (fun _ _ => rfl) fun _ =>
      (removeResponse_none (by simpa using h)).trans (modPort_eq_self _ _ _ rfl).symm
    rw [modPort_eq_self s p id rfl] at this
    exact congrArg _ this

/-- A record shorter than the fill is followed by zeros. -/
theorem padTo_of_le {n : Nat} {bs : List Byte} (h : bs.length ≤ n) : padTo n bs = bs ++ List.replicate (n - bs.length) 0 := by
  rw [padTo, List.take_append, List.take_of_length_le h, List.take_replicate]
  congr 2
  omega

theorem notice_length (r : Notice) : (byte r.kind :: r.fields).length ≤ 24 := by
  cases r <;> simp [Notice.fields, bytes16, bytes32]

/-- Settles O17: as for FETCH_RESPONSE; the layout of Table 10-8a is that of the model, kind by kind. -/
theorem fetchNoticeRemovesHeadAndReportsOverflow : Obligations.FetchNoticeRemovesHeadAndReportsOverflow := by
  unfold Obligations.FetchNoticeRemovesHeadAndReportsOverflow
  intro two four fields s p n served
  have layout (r : Notice) : fields r = byte r.kind :: r.fields := by
    cases r with
    | memberLost st port role session => cases role <;> rfl
    | _ => rfl
  refine ⟨(s.window p).status :: shiftRecord (s.window p).noticeBytes n, ?_, fun short => ?_, fun x rest complete presented head => ?_,
    fun complete h => ?_⟩
  · unfold Window.noticeBytes
    cases (s.window p).notice with
    | none => rfl
    | some r =>
      show _ = _ :: (fields r ++ List.replicate (24 - (fields r).length) 0 ++ List.replicate n 0xFF).take n
      rw [layout, ← padTo_of_le (notice_length r)]
      rfl
  · exact congrArg _ (fetchNoticeWindow_partial served short)
  · have removed := fetchNoticeWindow_complete served complete (fun r x => by dsimp only; split <;> rfl) fun _ =>
      removeNotice_head (rest := rest) presented (by simpa using head)
    refine ⟨fun zero => ?_, fun nonzero => ?_⟩
    · exact congrArg _ (removed.trans (congrArg _ (modPort_congr _ _ _ (if_pos zero))))
    · exact congrArg _ (removed.trans (congrArg _ (modPort_congr _ _ _ (if_neg nonzero))))
  · have := fetchNoticeWindow_complete served complete (g := id) (fun _ _ => rfl) fun _ =>
      (removeNotice_none (by simpa using h)).trans (modPort_eq_self _ _ _ rfl).symm
    rw [modPort_eq_self s p id rfl] at this
    exact congrArg _ this

end Sys2Proof.Machine
end

section
/-!
PROOFS. The frames of a SEND window (spec/10_the_master_port_link.md): the CRC, the link's judgement of raw bytes, the Request Engine's
judgement of a well-formed frame, and requests that do not fit the catalogue.
-/

namespace Sys2Proof.Machine

/-! ### The CRC (R178) -/

/-- One shift of the CRC register undone: the polynomial leaves bit 0 set exactly where a 1 left bit 7. -/
def crcUnshift (v : Byte) : Byte := if v.getLsbD 0 then ((v ^^^ 0x07) >>> 1) ||| 0x80 else v >>> 1

theorem crcUnshift_crcShift : ∀ v : Byte, crcUnshift (crcShift v) = v := by
  decide +kernel

theorem crcShift_injective : Function.Injective crcShift := Function.LeftInverse.injective crcUnshift_crcShift

theorem crcByte_eq_iterate (v b : Byte) : crcByte v b = crcShift^[8] (v ^^^ b) := rfl

theorem crcByte_injective {v w a b : Byte} (h : crcByte v a = crcByte w b) : v ^^^ a = w ^^^ b := by
  rw [crcByte_eq_iterate, crcByte_eq_iterate] at h
  exact crcShift_injective.iterate 8 h

theorem crcByte_right_injective {v a b : Byte} (h : crcByte v a = crcByte v b) : a = b :=
  (BitVec.xor_right_inj v).mp (crcByte_injective h)

theorem crcByte_left_injective {v w a : Byte} (h : crcByte v a = crcByte w a) : v = w :=
  (BitVec.xor_left_inj a).mp (crcByte_injective h)

/-- The rest of the bytes keeps two registers apart. -/
theorem foldl_crcByte_injective : ∀ {bs : List Byte} {v w : Byte}, bs.foldl crcByte v = bs.foldl crcByte w → v = w
  | [], _, _, h => h
  | _ :: _, _, _, h => crcByte_left_injective (foldl_crcByte_injective h)

/-- Settles O12: a byte takes the register to different values by different bytes, and each step after it can be undone. -/
theorem crcFollowsPolynomial : Obligations.CrcFollowsPolynomial := by
  refine ⟨rfl, fun bs b => ?_, by decide +kernel, fun before after a b h => ?_⟩
  · rw [crc8, List.foldl_append]
    exact crcByte_eq_iterate _ _
  · simp only [crc8, List.foldl_append, List.foldl_cons] at h
    exact crcByte_right_injective (foldl_crcByte_injective h)

/-! ### The link's judgement (R177) -/

theorem judgeBytes_lengthError {len : Byte} (h : 32 < len.toNat) (rest : List Byte) : judgeBytes (len :: rest) = .lengthError :=
  if_pos h

theorem judgeBytes_truncated {len : Byte} (h : len.toNat ≤ 32) {rest : List Byte} (short : rest.length < len.toNat + 3) :
    judgeBytes (len :: rest) = .truncated := by
  have fits : ¬ Config.maxPayload < len.toNat := Nat.not_lt.mpr h
  match rest with
  | [] | [_] => simp [judgeBytes, fits]
  | tag :: code :: body =>
    have : body.length ≤ len.toNat := by simp at short; omega
    simp [judgeBytes, fits, this]

/-- The bytes of a frame with check byte `check`, and what is clocked after them. -/
theorem judgeBytes_frame {payload : List Byte} (h : payload.length ≤ 32) (tag code check : Byte) (extra : List Byte) :
    judgeBytes (byte payload.length :: tag :: code :: (payload ++ check :: extra)) =
      if check = frameCrc tag code payload then .wellFormed tag code payload check else .crcError := by
  have len : (byte payload.length).toNat = payload.length := byte_toNat (by omega)
  have fits : ¬ Config.maxPayload < payload.length := Nat.not_lt.mpr h
  simp [judgeBytes, frameCrc, len, fits]; rfl

theorem judgeBytes_frameBytes {payload : List Byte} (h : payload.length ≤ 32) (tag code : Byte) (extra : List Byte) :
    judgeBytes (frameBytes tag code payload ++ extra) = .wellFormed tag code payload (frameCrc tag code payload) := by
  have := judgeBytes_frame h tag code (frameCrc tag code payload) extra
  rw [if_pos rfl] at this
  rw [← this]
  simp [frameBytes]

/-- Settles O11. -/
theorem frameRoundTrips : Obligations.FrameRoundTrips :=
  ⟨fun tag code _ extra h => judgeBytes_frameBytes h tag code extra, requestOfCode_codeOf⟩

/-- A SEND window whose bytes the link rejects. -/
theorem sendWindow_of_rejected {s : State} {p : Port} (served : s.serves p = true) {bytes : List Byte} (result : FrameResult)
    (rejected : ∀ t, applyJudged p (judgeBytes bytes) t = linkError p result t) :
    sendWindow p bytes s =
      (s.modPort p fun r => { r with lastFrame := result, frameErrors := r.frameErrors + 1 }).shuts p (s.shiftsOut p bytes.length) :=
  transaction_linkError served result fun _ t => rejected t

/-- Settles O9, by the first case of R177 that applies to the bytes. -/
theorem linkRejectsMalformedFrames : Obligations.LinkRejectsMalformedFrames := by
  intro s p served
  refine ⟨fun len rest long => ?_, ?_, fun len rest fits short => ?_, fun tag code check payload extra fits wrong => ?_⟩
  · exact congrArg _ (sendWindow_of_rejected served .lengthError fun t => by rw [judgeBytes_lengthError long]; rfl)
  · exact congrArg _ (sendWindow_of_rejected served .truncated fun t => rfl)
  · exact congrArg _ (sendWindow_of_rejected served .truncated fun t => by rw [judgeBytes_truncated fits short]; rfl)
  · have := sendWindow_of_rejected served (bytes := byte payload.length :: tag :: code :: (payload ++ check :: extra)) .crcError
      fun t => by rw [judgeBytes_frame fits, if_neg wrong]; rfl
    have count : (byte payload.length :: tag :: code :: (payload ++ check :: extra)).length = payload.length + 4 + extra.length := by
      simp; omega
    rw [count] at this
    exact congrArg _ this

/-! ### A SEND window with a frame -/

/-- A SEND window whose bytes are a frame hands the frame to the Request Engine. -/
theorem sendWindow_frameBytes {payload : List Byte} (h : payload.length ≤ 32) (p : Port) (tag code : Byte) (s : State) :
    sendWindow p (frameBytes tag code payload) s =
      transaction p (statusThen (payload.length + 4))
        (fun _ t => engine p tag code (frameCrc tag code payload) (frameBody p tag code payload) t) s := by
  have judged := judgeBytes_frameBytes h tag code []
  rw [List.append_nil] at judged
  have count : (frameBytes tag code payload).length = payload.length + 4 := by simp [frameBytes]
  simp only [sendWindow, judged, count, applyJudged]

/-- The raw bytes of a request's frame are its row. -/
theorem sendWindow_codeOf {payload : List Byte} (h : payload.length ≤ 32) (name : RequestName) (p : Port) (tag : Byte) (s : State) :
    sendWindow p (frameBytes tag (codeOf name) payload) s =
      sendRequest p tag name payload (requestBody name p tag payload) s := by
  rw [sendWindow_frameBytes h, sendRequest_eq h, frameBody_codeOf]

/-- Settles O10: both rows give the Request Engine the same frame and the same body. -/
theorem sendOfFrameIsRequest : Obligations.SendOfFrameIsRequest := by
  intro name p tag payload s h
  exact ⟨_, congrArg Host.Outcome.next (sendWindow_codeOf h name p tag s), exec_requestRow ..⟩

/-! ### The Request Engine's judgement (R155) -/

section judge
variable {r : PortRecord} {tag code check : Byte}

theorem judge_notAttached (detached : r.state = .detached) (attach : code ≠ codeOf .attach) (query : code ≠ codeOf .queryDevice) :
    r.judge tag code check = .notAttached := by
  simp [PortRecord.judge, detached, attach, query]

/-- A frame of a port that may send it and that matches no replay record: the window decides. -/
theorem judge_of_unmatched (awake : r.state ≠ .lapsing)
    (welcome : ¬ (r.state = .detached ∧ code ≠ codeOf .attach ∧ code ≠ codeOf .queryDevice))
    (unmatched : r.replayMatch tag code check = none) :
    r.judge tag code check = if 4 ≤ r.window then .windowFull else .taken := by
  unfold PortRecord.judge
  rw [if_neg awake, if_neg welcome, unmatched]
  rfl

/-- A frame of an ATTACHED port that matches its replay record: the copy and the window decide. -/
theorem judge_of_matched {m : Replay} (attached : r.state = .attached) (matched : r.replayMatch tag code check = some m) :
    r.judge tag code check =
      if m.copy.isNone then .duplicateDropped else if 4 ≤ r.window then .windowFull else .replayed := by
  unfold PortRecord.judge
  rw [if_neg (by simp [attached]), if_neg (by simp [attached]), matched]
  rfl

theorem replayMatch_of_matches {m : Replay} (attached : r.state = .attached) (replay : r.replay = some m) (nonzero : tag ≠ 0)
    (sameTag : m.tag = tag) (sameCode : m.code = code) (sameCheck : m.check = check) :
    r.replayMatch tag code check = some m := by
  have frame : m.matchesFrame tag code check = true := by
    simpa [Replay.matchesFrame, sameTag, sameCode, sameCheck] using nonzero
  simp only [PortRecord.replayMatch, replay, attached, frame, and_self, if_true]

theorem replayMatch_of_unmatched (h : r.matchesReplay tag code check = false) : r.replayMatch tag code check = none := by
  unfold PortRecord.matchesReplay at h
  unfold PortRecord.replayMatch
  cases hr : r.replay with
  | none => rfl
  | some m =>
    rw [hr] at h
    have frame : m.matchesFrame tag code check = false := h
    simp only [frame, Bool.false_eq_true, and_false, if_false]

theorem replayMatch_of_detached (detached : r.state = .detached) : r.replayMatch tag code check = none := by
  unfold PortRecord.replayMatch
  split
  · exact if_neg fun both => by simp [detached] at both
  · rfl

end judge

/-! ### Frames that are judged and not taken -/

/-- The row of a request whose frame the Request Engine judges and does not execute: `f` is what becomes of the port's record before
the end of the transaction. -/
theorem exec_of_engine {s : State} {p : Port} {name : RequestName} {tag : Byte} {payload : List Byte} {f : PortRecord → PortRecord}
    (served : s.serves p = true) (fits : payload.length ≤ 32)
    (judged : ∀ x body, engine p tag (codeOf name) (frameCrc tag (codeOf name) payload) body
        (s.modPort p fun r => { r with select := x }) =
      renewLease p ((s.modPort p fun r => { r with select := x }).modPort p f))
    (hf : ∀ r x, f { r with select := x } = { f r with select := x }) :
    exec (requestRow name p tag payload) s = .next (s.sends p payload (s.modPort p f)) := by
  rw [exec_requestRow, sendRequest_eq fits]
  exact congrArg _ (transaction_closes served (judged _ _) hf)

/-- No lease runs for a port that is not ATTACHED, so there is none to renew. -/
theorem renewLease_of_unattached {s : State} {p : Port} (h : (s.port p).state ≠ .attached) : renewLease p s = s :=
  modPort_eq_self _ _ _ (if_neg h)

/-- Rejected NOT_ATTACHED (R155, R179): the frame result recorded. -/
theorem engine_notAttached {s : State} {p : Port} {tag code check : Byte} {body : State → Served}
    (h : (s.port p).judge tag code check = .notAttached) (unattached : (s.port p).state ≠ .attached) :
    engine p tag code check body s = renewLease p (s.modPort p fun r => { r with lastFrame := .notAttached }) := by
  rw [renewLease_of_unattached (by simpa using unattached)]
  simp only [engine, h]
  rfl

theorem engine_duplicateDropped {s : State} {p : Port} {tag code check : Byte} {body : State → Served}
    (h : (s.port p).judge tag code check = .duplicateDropped) :
    engine p tag code check body s = renewLease p (s.modPort p fun r => { r with lastFrame := .duplicateDropped }) := by
  simp only [engine, h]
  rfl

theorem engine_windowFull {s : State} {p : Port} {tag code check : Byte} {body : State → Served}
    (h : (s.port p).judge tag code check = .windowFull) :
    engine p tag code check body s = renewLease p (s.modPort p fun r => { r with lastFrame := .windowFull }) := by
  simp only [engine, h]
  rfl

theorem engine_replayed {s : State} {p : Port} {tag code check : Byte} {body : State → Served} {m : Replay} {c : Response}
    (h : (s.port p).judge tag code check = .replayed) (matched : (s.port p).replayMatch tag code check = some m)
    (copy : m.copy = some c) :
    engine p tag code check body s = renewLease p (s.modPort p fun r =>
      { r with lastFrame := .replayed, framesTaken := r.framesTaken + 1, window := r.window + 1, responses := r.responses ++ [c] }) := by
  simp only [engine, h]
  exact congrArg _ (modPort_congr _ _ _ (by simp [matched, copy]))

/-! ### Frames that are taken -/

/-- A request's body leaves the frame result of the port as the taking of the frame set it. -/
theorem requestBody_lastFrame (s : State) (p : Port) (name : RequestName) (tag : Byte) (payload : List Byte) :
    (((requestBody name p tag payload s).1).port p).lastFrame = (s.port p).lastFrame := by
  obtain h | ⟨lease, _, _, h⟩ | h | ⟨mask, _, h⟩ := requestBody_ports s p name tag payload
  · rw [(h p).same]
  · simp [h, PortRecord.attached]
  · rw [h, firstStage_eq]
    simp [State.withoutParked]
  · simp [h]

/-- The row of a request that is taken, whether from an ATTACHED or a DETACHED port, leaves the frame result TAKEN. -/
theorem exec_lastFrame {s : State} {p : Port} {name : RequestName} {tag : Byte} {payload : List Byte}
    (h : s.takes p tag (codeOf name) payload = true ∨ s.takesDetached p (codeOf name) payload = true) :
    ∃ t, exec (requestRow name p tag payload) s = .next t ∧ (t.port p).lastFrame = .taken := by
  have sent : sendRequest p tag name payload (requestBody name p tag payload) s =
      match requestBody name p tag payload (s.taken p tag (codeOf name) payload) with
      | (t, some reply) => s.responds p tag (codeOf name) payload reply.result reply.data t
      | (t, none) => s.sends p payload t := h.elim (sendRequest_taken · _) (sendRequest_taken_detached · _)
  have frame : (((requestBody name p tag payload (s.taken p tag (codeOf name) payload)).1).port p).lastFrame = .taken := by
    rw [requestBody_lastFrame]
    simp [State.taken]
  refine ⟨_, exec_requestRow .., ?_⟩
  rw [sent]
  split
  next t reply body => rw [body] at frame; simpa [State.responds, State.sends, State.closes, State.shuts] using frame
  next t body => rw [body] at frame; simpa [State.sends, State.closes, State.shuts] using frame

/-- Settles O13, by the steps of R155 in their order. -/
theorem engineJudgesFrames : Obligations.EngineJudgesFrames := by
  intro s p name tag payload served fits
  refine ⟨fun lapsing => exec_rejects_lapsing served lapsing fits name tag, fun detached attach query => ?_,
    fun m attached replay nonzero sameTag sameCode sameCheck => ?_, fun attached unmatched full => ?_,
    fun detached named full => ?_, exec_lastFrame⟩
  · refine exec_of_engine served fits (fun x body => engine_notAttached (judge_notAttached ?_ ?_ ?_) ?_) fun _ _ => rfl
    · simpa using detached
    · exact fun h => attach (codeOf_injective _ _ h)
    · exact fun h => query (codeOf_injective _ _ h)
    · simp [detached]
  · have matched (x : Select) : (((s.modPort p fun r => { r with select := x }).port p).replayMatch tag (codeOf name)
        (frameCrc tag (codeOf name) payload)) = some m :=
      replayMatch_of_matches (by simpa using attached) (by simpa using replay) nonzero sameTag sameCode sameCheck
    have judged (x : Select) := judge_of_matched (by simpa using attached) (matched x)
    refine ⟨fun waiting => ?_, fun c copy full => ?_, fun c copy room => ?_⟩
    · exact exec_of_engine served fits (fun x _ => engine_duplicateDropped (by rw [judged x]; simp [waiting])) fun _ _ => rfl
    · exact exec_of_engine served fits (fun x _ => engine_windowFull (by rw [judged x]; simp [copy, full])) fun _ _ => rfl
    · exact exec_of_engine served fits (fun x _ => engine_replayed (by rw [judged x]; simp [copy, room]) (matched x) copy)
        fun _ _ => rfl
  · refine exec_of_engine served fits (fun x _ => engine_windowFull ?_) fun _ _ => rfl
    rw [judge_of_unmatched (by simp [attached]) (by simp [attached])
      (replayMatch_of_unmatched (by simpa [PortRecord.matchesReplay] using unmatched))]
    simp [full]
  · refine exec_of_engine served fits (fun x _ => engine_windowFull ?_) fun _ _ => rfl
    rw [judge_of_unmatched (by simp [detached]) (by rcases named with rfl | rfl <;> simp)
      (replayMatch_of_detached (by simpa using detached))]
    simp [full]

end Sys2Proof.Machine
end

section
/-!
PROOFS. Requests that do not fit the catalogue (R168): code bytes that name no request, and payloads of a length that Table 9-2 does not
allow.
-/

namespace Sys2Proof.Machine

/-! ### The length of a CONFIGURE_STREAM (R28) -/

theorem takeItem_length {selected : Bool} {values rest : List Byte} {x : Option Byte}
    (h : takeItem selected values = some (x, rest)) : values.length = selected.toNat + rest.length := by
  unfold takeItem at h
  split at h
  next yes =>
    split at h
    · obtain ⟨rfl, rfl⟩ := Prod.mk.inj (Option.some.inj h)
      simp [yes, Nat.add_comm]
    · cases h
  next no =>
    obtain ⟨rfl, rfl⟩ := Prod.mk.inj (Option.some.inj h)
    simp [no]

theorem valueBytes_eq (selector : Byte) : valueBytes selector =
    (selector.getLsbD 0).toNat + (selector.getLsbD 1).toNat + (selector.getLsbD 2).toNat + (selector.getLsbD 3).toNat +
      (selector.getLsbD 4).toNat + (selector.getLsbD 5).toNat + (selector.getLsbD 6).toNat +
      2 * (selector.getLsbD 7).toNat := by
  have toNat_eq (b : Bool) : b.toNat = if b = true then 1 else 0 := by cases b <;> rfl
  have two : (if selector.getLsbD 7 = true then 2 else 0) = 2 * (selector.getLsbD 7).toNat := by
    cases selector.getLsbD 7 <;> rfl
  simp only [two, valueBytes, List.range_succ, List.range_zero, List.nil_append, List.countP_append, List.countP_nil, List.countP_cons,
    toNat_eq]
  omega

/-- The items a selector calls for take as many bytes as it names. -/
theorem selectedItems?_length {selector : Byte} {values : List Byte} {c : ConfigItems}
    (h : selectedItems? selector values = some c) : values.length = valueBytes selector := by
  simp only [selectedItems?, Option.bind_eq_bind, Option.bind_eq_some_iff, Prod.exists] at h
  obtain ⟨_, v0, h0, _, v1, h1, _, v2, h2, _, v3, h3, _, v4, h4, _, v5, h5, _, v6, h6, _, v7, h7, _, v8, h8, rest⟩ := h
  have empty : v8.length = 0 := by
    split at rest
    next e => simpa using e
    next => cases rest
  rw [valueBytes_eq, takeItem_length h0, takeItem_length h1, takeItem_length h2, takeItem_length h3, takeItem_length h4,
    takeItem_length h5, takeItem_length h6, takeItem_length h7, takeItem_length h8, empty]
  omega

/-! ### The length of every request (Table 9-2, R168) -/

theorem openItems?_length {payload : List Byte} {c : ConfigItems} (h : openItems? payload = some c) : payload.length = 9 := by
  unfold openItems? at h
  split at h
  · rfl
  · cases h

/-- Every body matches on the payload first: a length that Table 9-2 does not allow falls to its last case. -/
theorem requestBody_unfit {name : RequestName} {payload : List Byte} (h : lengthFits name payload = false) (p : Port) (tag : Byte)
    (s : State) : requestBody name p tag payload s = refuse .unknown s := by
  cases name
  case configureStream =>
    match payload, h with
    | [], _ | [_], _ => rfl
    | n :: selector :: values, h =>
      have none : selectedItems? selector values = none := by
        by_contra some
        obtain ⟨c, hc⟩ := Option.ne_none_iff_exists'.mp some
        simp [lengthFits, selectedItems?_length hc] at h
        omega
      simp only [requestBody, configureStreamRequest, none]
  case openStream =>
    have none : openItems? payload = none := by
      by_contra some
      obtain ⟨c, hc⟩ := Option.ne_none_iff_exists'.mp some
      simp [lengthFits, openItems?_length hc] at h
    simp only [requestBody, openStreamRequest, none]
  case queryPool =>
    dsimp only [requestBody]
    unfold queryPoolRequest
    split
    · cases h
    · cases h
    · rfl
  case queryStream =>
    dsimp only [requestBody]
    unfold queryStreamRequest
    split
    · cases h
    · cases h
    · rfl
  all_goals
    simp only [requestBody, attachRequest, detachRequest, renewRequest, setNoticeMaskRequest, createPoolRequest, dissolvePoolRequest,
      claimPoolRequest, registerBufferRequest, retireBufferRequest, closeStreamRequest, claimStreamRequest, joinProducerRequest,
      leaveRequest, acquireRequest, abandonRequest, publishRequest, signalRequest, joinConsumerRequest, retuneConsumerRequest,
      ackStallRequest, startTimerRequest, stopTimerRequest, claimTimerRequest, queryDeviceRequest, queryPortRequest,
      queryBufferRequest]
    split
    · cases h
    · rfl

/-! ### Refusals of the Request Engine (R168) -/

/-- A frame whose code names no request, taken from an ATTACHED port. -/
theorem exec_send_unknown {s : State} {p : Port} {tag code : Byte} {payload : List Byte} (unnamed : ∀ name, codeOf name ≠ code)
    (h : s.takes p tag code payload = true) :
    exec (.send p (frameBytes tag code payload)) s = .next (s.refuses p tag code payload .unknown) := by
  have h' := h
  simp only [State.takes, Bool.and_eq_true, decide_eq_true_eq] at h'
  obtain ⟨⟨⟨⟨served, _⟩, _⟩, fits⟩, _⟩ := h'
  refine congrArg Host.Outcome.next ?_
  rw [sendWindow_frameBytes fits, send_of_judge served (judge_taken h)]
  simp only [frameBody, requestOfCode_eq_none unnamed]
  rfl

/-- Settles O14: a code or a length outside the catalogue, and the two checks that come before the catalogue is looked at. -/
theorem malformedRequestsRefusedUnknown : Obligations.MalformedRequestsRefusedUnknown := by
  intro s p tag payload
  refine ⟨fun code unnamed h => exec_send_unknown unnamed h, fun code unnamed served detached fits => ?_,
    fun name h unfit => exec_refuses h (requestBody_unfit unfit p tag _), fun name h unfit => ?_, fun name served long => ?_⟩
  · refine congrArg Host.Outcome.next ?_
    rw [sendWindow_frameBytes fits]
    exact transaction_closes served (engine_notAttached (judge_notAttached (by simpa [State.opened] using detached)
      (unnamed _).symm (unnamed _).symm) (by simp [State.opened, detached])) fun _ _ => rfl
  · exact exec_responds_detached h (requestBody_unfit unfit p tag _)
  · rw [exec_requestRow]
    exact congrArg _ (transaction_linkError served .lengthError fun _ _ => if_pos long)

end Sys2Proof.Machine
end

section
/-!
PROOFS. The beginning of a sweep (spec/08_sessions_and_leases.md), and the requests REGISTER_BUFFER and RETIRE_BUFFER of
spec/01_buffers_and_pools.md.
-/

namespace Sys2Proof.Machine

/-! ### From a request's body to its row -/

/-- The row of a request taken from an ATTACHED port whose body answers at once: `t` is the state after the body's effect. -/
theorem exec_responds {s t : State} {p : Port} {tag : Byte} {name : RequestName} {payload data : List Byte} {result : ResultCode}
    (h : s.takes p tag (codeOf name) payload = true)
    (hb : requestBody name p tag payload (s.taken p tag (codeOf name) payload) = (t, some ⟨result, data⟩)) :
    exec (requestRow name p tag payload) s = .next (s.responds p tag (codeOf name) payload result data t) := by
  rw [exec_requestRow, sendRequest_responds h hb]

/-- The row of a request taken from an ATTACHED port whose body parks. -/
theorem exec_parks {s t : State} {p : Port} {tag : Byte} {name : RequestName} {payload : List Byte}
    (h : s.takes p tag (codeOf name) payload = true)
    (hb : requestBody name p tag payload (s.taken p tag (codeOf name) payload) = (t, none)) :
    exec (requestRow name p tag payload) s = .next (s.sends p payload t) := by
  rw [exec_requestRow, sendRequest_parks h hb]

/-! ### The beginning of a sweep (R141, R144, R145) -/

/-- The discarding of the parked ACQUIREs does not look at a port. -/
theorem withoutParked_modPort (s : State) (p q : Port) (f : PortRecord → PortRecord) :
    (s.modPort q f).withoutParked p = (s.withoutParked p).modPort q f := by
  have stream (st : StreamId) :
      ((s.modPort q f).withoutParked p).stream st = ((s.withoutParked p).modPort q f).stream st := by
    simp only [State.withoutParked, mapPools_stream, mapStreams_stream, modPort_stream]
    rfl
  refine state_ext (fun _ => ?_) (fun _ => ?_) stream (fun _ => ?_) (fun r => ?_) ?_ ?_ ?_ ?_ ?_ ?_ <;>
    simp [State.withoutParked, modPort_port]

@[simp] theorem withoutParked_port (s : State) (p q : Port) : (s.withoutParked p).port q = s.port q := by
  simp [State.withoutParked]

/-- The DETACH's own taking and the end of its transaction, on the record that the first stage leaves. -/
theorem sends_firstStage {s : State} {p : Port} (tag : Byte) :
    s.sends p [] (firstStage p (some tag) (s.taken p tag 0x11 [])) = (s.withoutParked p).modPort p fun r =>
      { r with state := .lapsing, leaseRemaining := none, responses := [], window := 0, replay := none, notices := [],
               lost := 0, sweep := some ⟨.stream 0, some tag⟩, lastFrame := .taken, framesTaken := r.framesTaken + 1,
               select := .high, shifted := some (s.shiftsOut p 4) } := by
  rw [firstStage_eq]
  unfold State.taken
  rw [withoutParked_modPort]
  simp only [State.sends, State.closes, State.shuts, modPort_modPort]
  exact modPort_congr _ _ _ (by simp)

/-- A renewal taken first leaves the lease a time to run (R143). -/
theorem leaseExpiry_of_renewed {t : State} {p : Port} (out : List Byte) (attached : (t.port p).state = .attached)
    (nonzero : (t.port p).leaseInterval ≠ 0) : exec (.leaseExpiry p) (t.closes p out) = .next (t.closes p out) := by
  refine congrArg Host.Outcome.next (if_neg fun expired => ?_)
  have zero := expired.2
  rw [closes_leaseRemaining attached] at zero
  have : (t.port p).leaseInterval.toNat = 0 := by simpa using zero
  exact nonzero (BitVec.eq_of_toNat_eq this)

/-- Settles O21: the first stage is that of `firstStage_eq`, for a DETACH between the taking of its frame and the end of its window. -/
theorem sweepBeginsAtDetachOrLeaseExpiry : Obligations.SweepBeginsAtDetachOrLeaseExpiry := by
  intro s p tag
  refine ⟨fun h => ?_, fun attached expired => ?_, fun h => ?_, fun served attached nonzero n => ?_⟩
  · have body : detachRequest p tag [] (s.taken p tag 0x11 []) = (firstStage p (some tag) (s.taken p tag 0x11 []), none) := rfl
    rw [← sends_firstStage]
    exact exec_parks (name := .detach) h body
  · rw [← firstStage_eq]
    exact congrArg Host.Outcome.next (if_pos ⟨attached, expired⟩)
  · refine congrArg Host.Outcome.next (if_neg fun expired => ?_)
    exact h.elim (absurd expired.1) (absurd expired.2)
  · exact ⟨_, congrArg Host.Outcome.next (statusWindow_eq served n), leaseExpiry_of_renewed _ attached nonzero⟩

/-! ### REGISTER_BUFFER (R17) -/

section register
variable {s : State} {p : Port} {k : PoolId} {h3 h2 h1 h0 l1 l0 : Byte}

theorem registerBufferRequest_range {n : Byte} (h : 3 < n.toNat) :
    registerBufferRequest p [n, h3, h2, h1, h0, l1, l0] s = refuse .range s := by
  simp [registerBufferRequest, index?_none (n := 4) h]

theorem registerBufferRequest_noSuch (unused : (s.pool k).state = .unused) :
    registerBufferRequest p [byte k.val, h3, h2, h1, h0, l1, l0] s = refuse .noSuch s := by
  simp [registerBufferRequest, unused]

theorem registerBufferRequest_denied (active : (s.pool k).state ≠ .unused) (foreign : (s.pool k).owner ≠ some p) :
    registerBufferRequest p [byte k.val, h3, h2, h1, h0, l1, l0] s = refuse .denied s := by
  simp [registerBufferRequest, active, foreign]

theorem vacantBuffer_eq_none (h : ∀ b, (s.buffer b).state ≠ .vacant) : s.vacantBuffer = none := by
  unfold State.vacantBuffer
  rw [allBuffers_eq]
  exact find?_finRange_none fun b => by simp [h b]

theorem vacantBuffer_eq_some {b : BufferId} (vacant : (s.buffer b).state = .vacant)
    (lowest : ∀ c, c < b → (s.buffer c).state ≠ .vacant) : s.vacantBuffer = some b := by
  unfold State.vacantBuffer
  rw [allBuffers_eq]
  exact find?_finRange (by simp [vacant]) fun c hc => by simp [lowest c hc]

theorem registerBufferRequest_noSlot (active : (s.pool k).state ≠ .unused) (own : (s.pool k).owner = some p)
    (none : s.vacantBuffer = none) :
    registerBufferRequest p [byte k.val, h3, h2, h1, h0, l1, l0] s = refuse .noSlot s := by
  simp [registerBufferRequest, active, own, none]

theorem registerBufferRequest_ok {b : BufferId} (active : (s.pool k).state ≠ .unused) (own : (s.pool k).owner = some p)
    (found : s.vacantBuffer = some b) :
    registerBufferRequest p [byte k.val, h3, h2, h1, h0, l1, l0] s = okWith [byte b.val, (s.buffer b).generation]
      (runArbiter k ((s.modBuffer b fun r =>
        { r with state := .free, pool := some k, handle := be32 h3 h2 h1 h0, layout := be16 l1 l0, stream := .none,
                 holds := 0, retiring := false }).modPool k fun q =>
          { q with free := q.free ++ [b], registered := q.registered + 1 })) := by
  simp only [registerBufferRequest, index?_four, if_neg active, own, ne_eq, not_true_eq_false, if_false, found]

end register

/-- Settles O27, by the four checks in the order of R17. -/
theorem registerBufferTakesLowestVacant : Obligations.RegisterBufferTakesLowestVacant := by
  intro s p tag h3 h2 h1 h0 l1 l0
  refine ⟨fun n hn h => exec_refuses (name := .registerBuffer) h (registerBufferRequest_range hn), fun k h =>
    ⟨fun unused => ?_, fun active foreign => ?_, fun active own full => ?_, fun b active own vacant lowest => ?_⟩⟩
  · exact exec_refuses (name := .registerBuffer) h (registerBufferRequest_noSuch unused)
  · exact exec_refuses (name := .registerBuffer) h (registerBufferRequest_denied active foreign)
  · exact exec_refuses (name := .registerBuffer) h (registerBufferRequest_noSlot active own (vacantBuffer_eq_none full))
  · exact exec_responds (name := .registerBuffer) h
      (registerBufferRequest_ok active own (vacantBuffer_eq_some (s := s.taken p tag 0x23 _) vacant lowest))

/-! ### RETIRE_BUFFER (R18, R19) -/

section retire
variable {s : State} {p : Port} {b : BufferId} {g : Byte}

theorem retireBufferRequest_range {n : Byte} (h : 63 < n.toNat) : retireBufferRequest p [n, g] s = refuse .range s := by
  simp [retireBufferRequest, index?_none (n := 64) h]

theorem retireBufferRequest_badState (vacant : (s.buffer b).state = .vacant) :
    retireBufferRequest p [byte b.val, g] s = refuse .badState s := by
  simp [retireBufferRequest, vacant]

theorem poolOwnerOf_eq_some : s.poolOwnerOf b = some p ↔ ∃ k, (s.buffer b).pool = some k ∧ (s.pool k).owner = some p := by
  unfold State.poolOwnerOf
  cases (s.buffer b).pool <;> simp

theorem retireBufferRequest_denied (occupied : (s.buffer b).state ≠ .vacant) (foreign : s.poolOwnerOf b ≠ some p) :
    retireBufferRequest p [byte b.val, g] s = refuse .denied s := by
  simp [retireBufferRequest, occupied, foreign]

theorem retireBufferRequest_free (own : s.poolOwnerOf b = some p) (fresh : (s.buffer b).generation = g) (free : (s.buffer b).state = .free) :
    retireBufferRequest p [byte b.val, g] s = okWith [0] (retireFree b s) := by
  simp [retireBufferRequest, own, fresh, free]

section own
variable (occupied : (s.buffer b).state ≠ .vacant) (own : s.poolOwnerOf b = some p)
include occupied own

theorem retireBufferRequest_stale (stale : (s.buffer b).generation ≠ g) :
    retireBufferRequest p [byte b.val, g] s = refuse .stale s := by
  simp [retireBufferRequest, occupied, own, stale]

theorem retireBufferRequest_inUse (fresh : (s.buffer b).generation = g) (inUse : (s.buffer b).state ≠ .free) :
    retireBufferRequest p [byte b.val, g] s = okWith [1] (s.modBuffer b fun r => { r with retiring := true }) := by
  simp [retireBufferRequest, occupied, own, fresh, inUse]

end own

theorem retireFree_of_pool {k : PoolId} (pool : (s.buffer b).pool = some k) :
    retireFree b s = (s.modBuffer b Buffer.unregistered).modPool k
      fun q => { q with free := q.free.erase b, registered := q.registered - 1 } := by
  simp only [retireFree, pool]

end retire

/-- Settles O28, by the four checks in the order of R18. -/
theorem retireBufferVacatesOrMarks : Obligations.RetireBufferVacatesOrMarks := by
  intro s p tag g
  refine ⟨fun n hn h => exec_refuses (name := .retireBuffer) h (retireBufferRequest_range hn), fun b h =>
    ⟨fun vacant => exec_refuses (name := .retireBuffer) h (retireBufferRequest_badState vacant), fun occupied foreign => ?_,
     fun k occupied pool owner => ?_⟩⟩
  · refine exec_refuses (name := .retireBuffer) h (retireBufferRequest_denied occupied fun own => ?_)
    obtain ⟨k, pool, owner⟩ := poolOwnerOf_eq_some.mp own
    exact foreign k pool owner
  · have own : (s.taken p tag 0x24 [byte b.val, g]).poolOwnerOf b = some p := poolOwnerOf_eq_some.mpr ⟨k, pool, owner⟩
    split_ifs with stale free
    · exact exec_refuses (name := .retireBuffer) h (retireBufferRequest_stale occupied own stale)
    · have body := retireBufferRequest_free own (not_not.mp stale) free
      rw [retireFree_of_pool (s := s.taken p tag 0x24 _) pool] at body
      exact exec_responds (name := .retireBuffer) h body
    · exact exec_responds (name := .retireBuffer) h (retireBufferRequest_inUse occupied own (not_not.mp stale) free)

end Sys2Proof.Machine
end

section
/-!
PROOFS. OPEN_STREAM and CONFIGURE_STREAM of spec/02_streams.md: the items of a configuration and their ranges (Table 2-3), what the two
requests' bodies answer, by their checks in order, and the statements about their rows.
-/

namespace Sys2Proof.Machine

/-! ### Parameter bytes (Table 10-6, R181) -/

theorem byte_eq_of_toNat {b : Byte} {n : Nat} (h : b.toNat = n) : b = byte n :=
  BitVec.eq_of_toNat_eq (by rw [byte, BitVec.toNat_ofNat, ← h]; exact (Nat.mod_eq_of_lt b.isLt).symm)

/-- A policy byte of 0 or 1. -/
theorem policy?_of_le {b : Byte} (h : b.toNat ≤ 1) : policy? b = some (if b = 1 then .every else .latest) := by
  obtain h | h : b.toNat = 0 ∨ b.toNat = 1 := by omega
  · rw [byte_eq_of_toNat h]; rfl
  · rw [byte_eq_of_toNat h]; rfl

theorem policy?_isSome {b : Byte} : (policy? b).isSome = true ↔ b.toNat ≤ 1 := by
  refine ⟨fun h => ?_, fun h => by simp [policy?_of_le h]⟩
  unfold policy? at h
  split_ifs at h with zero one
  · simp [zero]
  · simp [one]
  · simp at h

@[simp] theorem policy?_code (y : Policy) : policy? y.code = some y := by
  cases y <;> rfl

theorem admitMask?_of_le {b : Byte} (h : b.toNat ≤ 15) : admitMask? b = some (b.extractLsb' 0 4) :=
  if_pos (Nat.lt_succ_of_le h)

theorem admitMask?_isSome {b : Byte} : (admitMask? b).isSome = true ↔ b.toNat ≤ 15 := by
  refine ⟨fun h => ?_, fun h => by simp [admitMask?_of_le h]⟩
  unfold admitMask? at h
  split_ifs at h with low
  · exact Nat.le_of_lt_succ low
  · simp at h

theorem toNat_setWidth_mask (a : BitVec 4) : (a.setWidth 8).toNat ≤ 15 := by
  rw [BitVec.toNat_setWidth_of_le (by decide)]
  exact Nat.le_of_lt_succ a.isLt

@[simp] theorem admitMask?_setWidth (a : BitVec 4) : admitMask? (a.setWidth 8) = some a := by
  rw [admitMask?_of_le (toNat_setWidth_mask a)]
  revert a
  decide

theorem index?_isSome {n : Nat} {b : Byte} : (index? n b).isSome = true ↔ b.toNat < n := by
  unfold index?
  split <;> simp_all

theorem index?_of_lt {n : Nat} {b : Byte} (h : b.toNat < n) : index? n b = some ⟨b.toNat, h⟩ := dif_pos h

/-- A signaller byte that names a port, or 0xFF. -/
theorem signaller?_of_fits {b : Byte} (h : b.toNat ≤ 3 ∨ b = 0xFF) : signaller? b = some (index? 4 b) := by
  unfold signaller?
  split_ifs with absent
  · rw [absent]; rfl
  · have low := h.resolve_right absent
    rw [index?_of_lt (Nat.lt_succ_of_le low)]

theorem signaller?_isSome {b : Byte} : (signaller? b).isSome = true ↔ b.toNat ≤ 3 ∨ b = 0xFF := by
  refine ⟨fun h => ?_, fun h => by simp [signaller?_of_fits h]⟩
  unfold signaller? at h
  split_ifs at h with absent
  · exact .inr absent
  · refine .inl (Nat.le_of_lt_succ (index?_isSome.mp ?_))
    cases hi : index? 4 b with
    | none => simp [hi] at h
    | some p => rfl

theorem index?_absentByte (w : Option Port) : index? 4 (absentByte w) = w := by
  cases w with
  | none => rfl
  | some p => exact index?_four p

theorem absentByte_fits (w : Option Port) : (absentByte w).toNat ≤ 3 ∨ absentByte w = 0xFF := by
  cases w with
  | none => exact .inr rfl
  | some p => exact .inl (by rw [show absentByte (some p) = byte p.val from rfl, byte_toNat (by omega)]; omega)

/-! ### The items of a configuration (R26 to R31) -/

theorem itemOk_iff {x : Option Byte} {good : Byte → Bool} : itemOk x good = true ↔ ∀ b ∈ x, good b = true := by
  cases x <;> simp [itemOk]

theorem itemNat_eq (x : Option Byte) (present : Nat) : itemNat x present = (x.map BitVec.toNat).getD present := by
  cases x <;> rfl

/-- The model's test of the ranges is `ConfigItems.Fits`. -/
theorem inRange_iff {c : ConfigItems} {quota reserve : Nat} : c.inRange quota reserve = true ↔ c.Fits quota reserve := by
  have reserves (q : Prop) : (!(c.quota.isSome || c.reserve.isSome)) = true ∨ q ↔ (c.quota ≠ none ∨ c.reserve ≠ none → q) := by
    cases c.quota <;> cases c.reserve <;> simp
  simp only [ConfigItems.inRange, ConfigItems.Fits, Bool.and_eq_true, itemOk_iff, policy?_isSome, admitMask?_isSome, signaller?_isSome,
    itemNat_eq, decide_eq_true_eq, Bool.or_eq_true _ (decide _), reserves, and_assoc, Nat.lt_succ_iff]

/-- Items in their ranges take the values that the statements give them. -/
theorem apply_eq_configured {c : ConfigItems} {quota reserve : Nat} (h : c.Fits quota reserve) (x : Stream) :
    c.apply x = c.configured x := by
  obtain ⟨-, policy, -, -, -, prod, cons, sig⟩ := h
  have pools : c.poolOf x.pool = (c.pool.bind (index? 4)).getD x.pool := by
    unfold ConfigItems.poolOf
    cases c.pool <;> rfl
  have policies : c.policyOf x.policy = (c.policy.map fun b => if b = 1 then .every else .latest).getD x.policy := by
    unfold ConfigItems.policyOf
    cases hp : c.policy with
    | none => rfl
    | some b => simp [policy?_of_le (policy b hp)]
  unfold ConfigItems.apply ConfigItems.configured
  rw [pools, policies, itemNat_eq, itemNat_eq, itemNat_eq, itemNat_eq]
  cases hs : c.signaller <;> cases ha : c.producerMask <;> cases hb : c.consumerMask <;>
    simp_all [signaller?_of_fits, admitMask?_of_le]

theorem poolMissing_iff {c : ConfigItems} {s : State} : poolMissing c s = true ↔ c.poolUnused s := by
  unfold poolMissing ConfigItems.poolUnused
  cases c.pool with
  | none => simp
  | some b => cases hi : index? 4 b <;> simp [hi]

/-! ### OPEN_STREAM (R26, R27) -/

section openStream
variable {s : State} {p : Port} {payload : List Byte} {c : ConfigItems}

theorem openStreamRequest_range (items : openItems? payload = some c) (unfit : ¬ c.Fits 1 0) :
    openStreamRequest p payload s = refuse .range s := by
  rw [← inRange_iff, Bool.not_eq_true] at unfit
  have : c.inRange Stream.cleared.quota Stream.cleared.reserve = false := unfit
  simp [openStreamRequest, items, this]

section fits
variable (items : openItems? payload = some c) (fits : c.Fits 1 0)
include items fits

theorem openStreamRequest_noSuch (missing : c.poolUnused s) : openStreamRequest p payload s = refuse .noSuch s := by
  have : c.inRange Stream.cleared.quota Stream.cleared.reserve = true := inRange_iff.mpr fits
  simp [openStreamRequest, items, this, poolMissing_iff.mpr missing]

theorem openStreamRequest_noSlot (present : ¬ c.poolUnused s) (none : s.closedStream = none) :
    openStreamRequest p payload s = refuse .noSlot s := by
  have : c.inRange Stream.cleared.quota Stream.cleared.reserve = true := inRange_iff.mpr fits
  rw [← poolMissing_iff] at present
  simp [openStreamRequest, items, this, present, none]

theorem openStreamRequest_ok {st : StreamId} (present : ¬ c.poolUnused s) (found : s.closedStream = some st) :
    openStreamRequest p payload s = okWith [byte st.val]
      (s.modStream st fun _ => { c.configured Stream.cleared with state := .vacant, owner := some p, nextSequence := 1 }) := by
  have : c.inRange Stream.cleared.quota Stream.cleared.reserve = true := inRange_iff.mpr fits
  rw [← poolMissing_iff] at present
  simp [openStreamRequest, items, this, present, found, openedStream, apply_eq_configured fits]

end fits

theorem closedStream_eq_none (h : ∀ st, (s.stream st).state ≠ .closed) : s.closedStream = none := by
  unfold State.closedStream
  rw [allStreams_eq]
  exact find?_finRange_none fun st => by simp [h st]

theorem closedStream_eq_some {st : StreamId} (closed : (s.stream st).state = .closed)
    (lowest : ∀ u, u < st → (s.stream u).state ≠ .closed) : s.closedStream = some st := by
  unfold State.closedStream
  rw [allStreams_eq]
  exact find?_finRange (by simp [closed]) fun u hu => by simp [lowest u hu]

end openStream

/-- The items of an OPEN_STREAM. -/
def nineItems (pool policy depth quota reserve limit prod cons sig : Byte) : ConfigItems :=
  { pool := some pool, policy := some policy, depth := some depth, quota := some quota, reserve := some reserve,
    signalLimit := some limit, signaller := some sig, producerMask := some prod, consumerMask := some cons }

theorem nineItems_fits {pool policy depth quota reserve limit prod cons sig : Byte} :
    (nineItems pool policy depth quota reserve limit prod cons sig).Fits 1 0 ↔
      pool.toNat ≤ 3 ∧ policy.toNat ≤ 1 ∧ (1 ≤ depth.toNat ∧ depth.toNat ≤ 8) ∧ (1 ≤ quota.toNat ∧ quota.toNat ≤ 16) ∧
        reserve.toNat ≤ quota.toNat ∧ prod.toNat ≤ 15 ∧ cons.toNat ≤ 15 ∧ (sig.toNat ≤ 3 ∨ sig = 0xFF) := by
  simp [nineItems, ConfigItems.Fits]

/-- A zero byte is below 1. -/
theorem toNat_of_zero {b : Byte} (h : b = 0) : b.toNat = 0 := by rw [h]; rfl

/-- Settles O29: the ranges are `nineItems_fits`, and in range each parameter byte gives its value back. -/
theorem openStreamTakesLowestClosed : Obligations.OpenStreamTakesLowestClosed := by
  intro s p tag pool policy depth quota reserve limit prod cons sig payload h
  have items : openItems? payload = some (nineItems pool policy depth quota reserve limit prod cons sig) := rfl
  refine ⟨fun outside => exec_refuses (name := .openStream) h (openStreamRequest_range items fun fits => ?_),
    fun k y a b w hpool hpolicy d1 d8 q1 q16 hreserve hprod hcons hsig => ?_⟩
  · obtain ⟨f1, f2, f3, f4, f5, f6, f7, f8⟩ := nineItems_fits.mp fits
    rcases outside with o | o | o | o | o | o | o | o | o | ⟨o, o'⟩
    any_goals omega
    · have := toNat_of_zero o; omega
    · have := toNat_of_zero o; omega
    · exact f8.elim (by omega) o'
  · subst hpool hpolicy hprod hcons hsig
    have fits : (nineItems (byte k.val) y.code depth quota reserve limit (a.setWidth 8) (b.setWidth 8) (absentByte w)).Fits 1 0 :=
      nineItems_fits.mpr ⟨by rw [byte_toNat (by omega)]; omega, policy?_isSome.mp (by simp), ⟨d1, d8⟩, ⟨q1, q16⟩, hreserve,
        toNat_setWidth_mask a, toNat_setWidth_mask b, absentByte_fits w⟩
    have unused : (nineItems (byte k.val) y.code depth quota reserve limit (a.setWidth 8) (b.setWidth 8) (absentByte w)).poolUnused s ↔
        (s.pool k).state = .unused := by
      simp [ConfigItems.poolUnused, nineItems]
    refine ⟨fun missing => ?_, fun present full => ?_, fun st present closed lowest => ?_⟩
    · exact exec_refuses (name := .openStream) h (openStreamRequest_noSuch items fits (unused.mpr missing))
    · exact exec_refuses (name := .openStream) h
        (openStreamRequest_noSlot items fits (mt unused.mp present) (closedStream_eq_none full))
    · have body := openStreamRequest_ok (s := s.taken p tag 0x30 payload) (p := p) items fits (mt unused.mp present)
        (closedStream_eq_some closed lowest)
      have record : { (nineItems (byte k.val) y.code depth quota reserve limit (a.setWidth 8) (b.setWidth 8)
            (absentByte w)).configured Stream.cleared with state := .vacant, owner := some p, nextSequence := 1 } =
          ({ state := .vacant, owner := some p, producer := none, signaller := w, pool := k, policy := y,
             depth := depth.toNat, quota := quota.toNat, reserve := reserve.toNat, signalLimit := limit.toNat,
             producerMask := a, consumerMask := b, nextSequence := 1, list := [],
             slots := Vector.replicate 3 Slot.cleared, parked := none, published := 0, flips := 0, dropped := 0,
             expired := 0 } : Stream) := by
        have mask (m : BitVec 4) : (m.setWidth 8).extractLsb' 0 4 = m := by
          have := admitMask?_setWidth m
          rw [admitMask?_of_le (toNat_setWidth_mask m)] at this
          exact Option.some.inj this
        have policies : (if y.code = 1#8 then Policy.every else .latest) = y := by cases y <;> rfl
        simp [nineItems, ConfigItems.configured, Stream.cleared, mask, policies, index?_absentByte]
      rw [record] at body
      exact exec_responds (name := .openStream) h body

/-! ### CONFIGURE_STREAM (R28 to R31) -/

theorem selectorBits : ∀ a b c d e f g h : Bool,
    let v : Byte := bit 0 a ||| bit 1 b ||| bit 2 c ||| bit 3 d ||| bit 4 e ||| bit 5 f ||| bit 6 g ||| bit 7 h
    v.getLsbD 0 = a ∧ v.getLsbD 1 = b ∧ v.getLsbD 2 = c ∧ v.getLsbD 3 = d ∧ v.getLsbD 4 = e ∧ v.getLsbD 5 = f ∧ v.getLsbD 6 = g ∧
      v.getLsbD 7 = h := by
  decide +kernel

theorem takeItem_toList (x : Option Byte) (rest : List Byte) : takeItem x.isSome (x.toList ++ rest) = some (x, rest) := by
  cases x <;> rfl

/-- The selector and the value bytes of items give the items back. -/
theorem selectedItems?_values {c : ConfigItems} (masks : c.producerMask.isSome = c.consumerMask.isSome) :
    selectedItems? c.selector c.values = some c := by
  obtain ⟨b0, b1, b2, b3, b4, b5, b6, b7⟩ := selectorBits c.pool.isSome c.policy.isSome c.depth.isSome c.quota.isSome
    c.reserve.isSome c.signalLimit.isSome c.signaller.isSome c.producerMask.isSome
  have last : takeItem c.consumerMask.isSome c.consumerMask.toList = some (c.consumerMask, []) := by
    simpa using takeItem_toList c.consumerMask []
  simp only [selectedItems?, ConfigItems.selector, b0, b1, b2, b3, b4, b5, b6, b7, ConfigItems.values, List.append_assoc,
    takeItem_toList, Option.bind_eq_bind, Option.bind_some]
  rw [masks, last]
  rfl

section configureStream
variable {s : State} {p : Port} {st : StreamId} {c : ConfigItems}

/-- The checks of R29 from the third on, in the words of the statements. -/
theorem configureRefusal_eq : configureRefusal p st c s =
    if (s.stream st).owner ≠ some p then some .denied
    else if (s.stream st).state = .draining then some .closed
    else if ¬ c.Fits (s.stream st).quota (s.stream st).reserve then some .range
    else if c.poolUnused s then some .noSuch
    else if ((c.configured (s.stream st)).pool ≠ (s.stream st).pool ∨ (c.configured (s.stream st)).policy ≠ (s.stream st).policy) ∧
        0 < s.outstanding st then some .badState
    else if c.depth ≠ none ∧ (c.configured (s.stream st)).depth < (s.stream st).list.length then some .badState
    else none := by
  by_cases fits : c.Fits (s.stream st).quota (s.stream st).reserve
  · rw [← apply_eq_configured fits]
    simp only [configureRefusal, ← inRange_iff, ← poolMissing_iff, Option.isSome_iff_ne_none, Bool.not_eq_true]
    rfl
  · have unfit : c.inRange (s.stream st).quota (s.stream st).reserve = false := by rwa [← Bool.not_eq_true, inRange_iff]
    simp only [configureRefusal, unfit, fits, if_true, not_false_eq_true]

/-- After a change of pool no ACQUIRE is parked, so the arbiter has nothing to run for. -/
theorem configure_eq (fits : c.Fits (s.stream st).quota (s.stream st).reserve) : configure st c s =
    if (c.configured (s.stream st)).pool ≠ (s.stream st).pool then (cancelParked st s).modStream st c.configured
    else if (s.stream st).parked.isSome ∧
        ((c.configured (s.stream st)).quota ≠ (s.stream st).quota ∨ (c.configured (s.stream st)).reserve ≠ (s.stream st).reserve) then
      runArbiter (s.stream st).pool (s.modStream st c.configured)
    else s.modStream st c.configured := by
  have same : c.apply = c.configured := funext (apply_eq_configured fits)
  have pool (x : Stream) : c.poolOf x.pool = (c.configured x).pool := by rw [← same]; rfl
  unfold configure
  simp only [pool, same]
  split
  next => simp [cancelParked_stream, ConfigItems.configured]
  next kept =>
    rw [modStream_stream_same, not_not.mp kept]
    rfl

section items
variable {selector : Byte} {values : List Byte} (items : selectedItems? selector values = some c)
include items

theorem configureStreamRequest_range {n : Byte} (h : 15 < n.toNat) :
    configureStreamRequest p (n :: selector :: values) s = refuse .range s := by
  simp only [configureStreamRequest, items, index?_none (n := 16) h]

theorem configureStreamRequest_noSuch (closed : (s.stream st).state = .closed) :
    configureStreamRequest p (byte st.val :: selector :: values) s = refuse .noSuch s := by
  simp only [configureStreamRequest, items, index?_sixteen, closed, if_true]

theorem configureStreamRequest_refused {r : ResultCode} (opened : (s.stream st).state ≠ .closed)
    (refused : configureRefusal p st c s = some r) :
    configureStreamRequest p (byte st.val :: selector :: values) s = refuse r s := by
  simp only [configureStreamRequest, items, index?_sixteen, opened, if_false, refused]

theorem configureStreamRequest_ok (opened : (s.stream st).state ≠ .closed) (passed : configureRefusal p st c s = none) :
    configureStreamRequest p (byte st.val :: selector :: values) s = okWith [] (configure st c s) := by
  simp only [configureStreamRequest, items, index?_sixteen, opened, if_false, passed]

end items

end configureStream

/-- Settles O30: the checks are those of `configureRefusal_eq` in their order, the effect that of `configure_eq`. -/
theorem configureStreamChangesItems : Obligations.ConfigureStreamChangesItems := by
  intro s p tag c masks
  have items := selectedItems?_values masks
  refine ⟨fun n hn h => exec_refuses (name := .configureStream) h (configureStreamRequest_range items hn), ?_⟩
  intro st payload x y h
  have checks := configureRefusal_eq (s := s.taken p tag 0x31 payload) (p := p) (st := st) (c := c)
  by_cases closed : x.state = .closed
  · rw [if_pos closed]
    exact exec_refuses (name := .configureStream) h (configureStreamRequest_noSuch items closed)
  have refused {r : ResultCode} (hr : configureRefusal p st c (s.taken p tag 0x31 payload) = some r) :=
    exec_refuses (name := .configureStream) h (configureStreamRequest_refused items closed hr)
  rw [if_neg closed]
  by_cases foreign : x.owner ≠ some p
  · rw [if_pos foreign]
    exact refused (checks.trans (if_pos foreign))
  rw [if_neg foreign]
  replace checks := checks.trans (if_neg foreign)
  by_cases draining : x.state = .draining
  · rw [if_pos draining]
    exact refused (checks.trans (if_pos draining))
  rw [if_neg draining]
  replace checks := checks.trans (if_neg draining)
  by_cases unfit : ¬ c.Fits x.quota x.reserve
  · rw [if_pos unfit]
    exact refused (checks.trans (if_pos unfit))
  rw [if_neg unfit]
  replace checks := checks.trans (if_neg unfit)
  by_cases missing : c.poolUnused s
  · rw [if_pos missing]
    exact refused (checks.trans (if_pos missing))
  rw [if_neg missing]
  replace checks := checks.trans (if_neg missing)
  by_cases bound : (y.pool ≠ x.pool ∨ y.policy ≠ x.policy) ∧ 0 < s.outstanding st
  · rw [if_pos bound]
    exact refused (checks.trans (if_pos bound))
  rw [if_neg bound]
  replace checks := checks.trans (if_neg bound)
  by_cases deep : c.depth ≠ none ∧ y.depth < x.list.length
  · rw [if_pos deep]
    exact refused (checks.trans (if_pos deep))
  rw [if_neg deep]
  have body := configureStreamRequest_ok (s := s.taken p tag 0x31 payload) items closed (checks.trans (if_neg deep))
  rw [configure_eq (s := s.taken p tag 0x31 payload) (not_not.mp unfit)] at body
  exact exec_responds (name := .configureStream) h body

end Sys2Proof.Machine
end

section
/-!
PROOFS. CLOSE_STREAM and LEAVE of spec/02_streams.md: what the two requests' bodies answer, by their checks in order, the notices to the
members of a stream, and the statements about the two rows.
-/

namespace Sys2Proof.Machine

/-! ### Changes of one record -/

theorem modStream_congr {s : State} {st : StreamId} {f g : Stream → Stream} (h : f (s.stream st) = g (s.stream st)) :
    s.modStream st f = s.modStream st g := by
  simp only [State.modStream, h]

theorem modBuffer_congr {s : State} {b : BufferId} {f g : Buffer → Buffer} (h : f (s.buffer b) = g (s.buffer b)) :
    s.modBuffer b f = s.modBuffer b g := by
  simp only [State.modBuffer, h]

theorem modPool_congr {s : State} {k : PoolId} {f g : Pool → Pool} (h : f (s.pool k) = g (s.pool k)) :
    s.modPool k f = s.modPool k g := by
  simp only [State.modPool, h]

/-! ### CLOSE_STREAM (R36, R37) -/

theorem closeStreamRequest_range {n : Byte} (h : 15 < n.toNat) (p : Port) (s : State) :
    closeStreamRequest p [n] s = refuse .range s := by
  simp [closeStreamRequest, index?_none (n := 16) h]

section closeStream
variable {s : State} {p : Port} {st : StreamId}

theorem closeStreamRequest_noSuch (closed : (s.stream st).state = .closed) :
    closeStreamRequest p [byte st.val] s = refuse .noSuch s := by
  simp [closeStreamRequest, closed]

theorem closeStreamRequest_denied (opened : (s.stream st).state ≠ .closed) (foreign : (s.stream st).owner ≠ some p) :
    closeStreamRequest p [byte st.val] s = refuse .denied s := by
  simp [closeStreamRequest, opened, foreign]

theorem closeStreamRequest_draining (draining : (s.stream st).state = .draining) (own : (s.stream st).owner = some p) :
    closeStreamRequest p [byte st.val] s = okWith [byte (s.outstanding st)] s := by
  simp [closeStreamRequest, draining, own]

theorem closeStreamRequest_ok (opened : (s.stream st).state ≠ .closed) (own : (s.stream st).owner = some p)
    (running : (s.stream st).state ≠ .draining) :
    closeStreamRequest p [byte st.val] s =
      okWith [byte ((closeStream st s).outstanding st)] (drainTest st (closeStream st s)) := by
  simp only [closeStreamRequest, index?_sixteen, opened, own, running, ne_eq, not_true_eq_false, if_false]

/-- A list without its own buffers is empty. -/
theorem without_self (l : List Entry) : without l (l.map Entry.buffer) = [] := by
  simp only [without, List.filter_eq_nil_iff, List.contains_eq_mem, Bool.not_eq_true', decide_eq_false_iff_not, not_not]
  exact fun e he => List.mem_map_of_mem he

/-- Steps 1 to 3 of R37: DRAINING with the parked ACQUIRE cancelled, and every entry removed. -/
theorem removeEntries_all (a : State) : removeEntries st ((a.stream st).list.map Entry.buffer) a =
    unlistAll ((a.stream st).list.map Entry.buffer) (a.modStream st fun x => { x with list := [] }) := by
  unfold removeEntries
  exact congrArg _ (modStream_congr (by rw [without_self]))

theorem queueNotices_outstanding (ps : List Port) (n : Notice) (t : State) (u : StreamId) :
    (queueNotices ps n t).outstanding u = t.outstanding u := by
  simp only [outstanding_eq, queueNotices_buffer]

end closeStream

/-- The members of a stream each receive a notice once, and no other port does (R24, R120). -/
theorem queueNotices_members (x : Stream) (n : Notice) (s : State) : ∃ t, queueNotices x.members n s = t ∧
    t = { s with ports := t.ports } ∧ ∀ q, t.port q =
      if x.producer = some q ∨ ∃ c, (x.slot c).occupied = true ∧ (x.slot c).port = some q then (queueNotice q n s).port q
      else s.port q := by
  have ports (ps : List Port) (t : State) : queueNotices ps n t = { t with ports := (queueNotices ps n t).ports } := by
    induction ps generalizing t with
    | nil => rfl
    | cons p ps ih => exact ih (queueNotice p n t)
  refine ⟨_, rfl, ports _ _, fun q => ?_⟩
  rw [queueNotices_port (members_nodup x)]
  simp only [mem_members, queueNotice, modPort_port_same]

/-- Settles O31: the steps of R37 are those of the body, the notices those of `queueNotices_members`. -/
theorem closeStreamBeginsDrain : Obligations.CloseStreamBeginsDrain := by
  intro s p tag
  refine ⟨fun n hn h => exec_refuses (name := .closeStream) h (closeStreamRequest_range hn p _), fun st h =>
    ⟨fun closed => ?_, fun opened foreign => ?_, fun draining own => ?_, fun running own => ?_,
     fun x n => queueNotices_members x n s⟩⟩
  · exact exec_refuses (name := .closeStream) h (closeStreamRequest_noSuch closed)
  · exact exec_refuses (name := .closeStream) h (closeStreamRequest_denied opened foreign)
  · exact exec_responds (name := .closeStream) h (closeStreamRequest_draining (s := s.taken p tag 0x32 _) draining own)
  · refine ⟨_, _, rfl, rfl, ?_⟩
    have body := closeStreamRequest_ok (s := s.taken p tag 0x32 [byte st.val]) (p := p) (st := st)
      (by rcases running with h | h <;> simp [h]) own (by rcases running with h | h <;> simp [h])
    unfold closeStream at body
    have list : ((cancelParked st ((s.taken p tag 0x32 [byte st.val]).modStream st fun x => { x with state := .draining })).stream
        st).list = (s.stream st).list := by
      rw [cancelParked_stream, if_pos rfl, modStream_stream_same]
      rfl
    dsimp only at body
    rw [removeEntries_all, list, queueNotices_outstanding] at body
    exact exec_responds (name := .closeStream) h body

/-! ### LEAVE (R35, R101) -/

theorem leaveRequest_range {n : Byte} (h : 15 < n.toNat) (p : Port) (s : State) : leaveRequest p [n] s = refuse .range s := by
  simp [leaveRequest, index?_none (n := 16) h]

section leave
variable {s : State} {p : Port} {st : StreamId}

theorem leaveRequest_noSuch (closed : (s.stream st).state = .closed) : leaveRequest p [byte st.val] s = refuse .noSuch s := by
  simp [leaveRequest, closed]

theorem leaveRequest_denied (opened : (s.stream st).state ≠ .closed) (other : (s.stream st).producer ≠ some p)
    (slotless : (s.stream st).slotOf p = none) : leaveRequest p [byte st.val] s = refuse .denied s := by
  simp [leaveRequest, opened, other, slotless]

theorem leaveRequest_producer (opened : (s.stream st).state ≠ .closed) (producer : (s.stream st).producer = some p) :
    leaveRequest p [byte st.val] s = okWith [] (producerLeave st s) := by
  simp [leaveRequest, opened, producer]

theorem leaveRequest_consumer {c : SlotId} (opened : (s.stream st).state ≠ .closed) (other : (s.stream st).producer ≠ some p)
    (slot : (s.stream st).slotOf p = some c) : leaveRequest p [byte st.val] s = okWith [] (consumerLeave st c s) := by
  simp [leaveRequest, opened, other, slot]

end leave

/-- Settles O33, by the role the port holds. A producer LEAVE looks for a signaller after the releases of step 3; they leave it as it
is. -/
theorem leaveEndsRole : Obligations.LeaveEndsRole := by
  intro s p tag
  refine ⟨fun n hn h => exec_refuses (name := .leave) h (leaveRequest_range hn p _), fun st h =>
    ⟨fun closed => ?_, fun opened other slotless => ?_, fun opened producer => ?_, fun c opened other occupied own lowest => ?_⟩⟩
  · exact exec_refuses (name := .leave) h (leaveRequest_noSuch closed)
  · exact exec_refuses (name := .leave) h (leaveRequest_denied opened other (slotOf_eq_none.mpr slotless))
  · refine ⟨_, _, _, rfl, rfl, rfl, ?_⟩
    have body := leaveRequest_producer (s := s.taken p tag 0x35 [byte st.val]) opened producer
    unfold producerLeave at body
    have signaller : ((releaseFillings st ((cancelParked st (s.taken p tag 0x35 [byte st.val])).modStream st fun x =>
        { x with producer := none })).stream st).signaller = (s.stream st).signaller := by
      rw [((follows_releaseFillings st _).streams st).signaller, modStream_stream_same, cancelParked_stream, if_pos rfl]
      rfl
    dsimp only at body
    rw [signaller] at body
    simp only [Option.isNone_iff_eq_none] at body
    exact exec_responds (name := .leave) h body
  · exact exec_responds (name := .leave) h
      (leaveRequest_consumer (s := s.taken p tag 0x35 _) opened other (slotOf_eq_some occupied own lowest))

end Sys2Proof.Machine
end

section
/-!
PROOFS. Acquisition (spec/03_acquisition_and_the_pool_arbiter.md): ACQUIRE, the end of a parked ACQUIRE, ABANDON, and the choices of the
arbiter.
-/

namespace Sys2Proof.Machine

/-! ### ACQUIRE (R45 to R47) -/

section acquire
variable {s : State} {p : Port} {tag wait : Byte} {st : StreamId}

theorem acquireRequest_range {n : Byte} (h : 15 < n.toNat) : acquireRequest p tag [n, wait] s = refuse .range s := by
  simp [acquireRequest, index?_none (n := 16) h]

theorem acquireRequest_noSuch (closed : (s.stream st).state = .closed) :
    acquireRequest p tag [byte st.val, wait] s = refuse .noSuch s := by
  simp [acquireRequest, closed]

theorem acquireRequest_closed (draining : (s.stream st).state = .draining) :
    acquireRequest p tag [byte st.val, wait] s = refuse .closed s := by
  simp [acquireRequest, draining]

section running
variable (running : (s.stream st).state ≠ .closed ∧ (s.stream st).state ≠ .draining)
include running

theorem acquireRequest_denied (other : (s.stream st).producer ≠ some p) :
    acquireRequest p tag [byte st.val, wait] s = refuse .denied s := by
  simp [acquireRequest, running, other]

section producer
variable (producer : (s.stream st).producer = some p)
include producer

theorem acquireRequest_quota (full : (s.stream st).quota ≤ s.outstanding st) :
    acquireRequest p tag [byte st.val, wait] s = refuse .quota s := by
  simp [acquireRequest, running, producer, full]

section room
variable (room : s.outstanding st < (s.stream st).quota)
include room

theorem acquireRequest_alreadyWaiting {k : Parked} (parked : (s.stream st).parked = some k) :
    acquireRequest p tag [byte st.val, wait] s = (s, some ⟨.alreadyWaiting, [k.tag]⟩) := by
  simp [acquireRequest, running, producer, Nat.not_le.mpr room, parked]

theorem acquireRequest_exhausted (unparked : (s.stream st).parked = none) (empty : (s.pool (s.stream st).pool).free = []) :
    acquireRequest p tag [byte st.val, 0] s = refuse .exhausted s := by
  simp [acquireRequest, running, producer, Nat.not_le.mpr room, unparked, empty]

theorem acquireRequest_parks (unparked : (s.stream st).parked = none) (empty : (s.pool (s.stream st).pool).free = [])
    (patient : wait ≠ 0) : acquireRequest p tag [byte st.val, wait] s = (park p tag st wait.toNat s, none) := by
  simp only [acquireRequest, index?_sixteen, if_neg running.1, if_neg running.2, producer, ne_eq, not_true_eq_false, if_false,
    if_neg (Nat.not_le.mpr room), unparked, empty, if_neg patient]

theorem acquireRequest_grants {b : BufferId} {rest : List BufferId} (unparked : (s.stream st).parked = none)
    (free : (s.pool (s.stream st).pool).free = b :: rest) : acquireRequest p tag [byte st.val, wait] s =
      okWith (grantData b ((grant (s.stream st).pool st b s).buffer b)) (grant (s.stream st).pool st b s) := by
  simp only [acquireRequest, index?_sixteen, if_neg running.1, if_neg running.2, producer, ne_eq, not_true_eq_false, if_false,
    if_neg (Nat.not_le.mpr room), unparked, free]

end room

end producer

end running

end acquire

/-- A grant of the head of the free list. -/
theorem grant_head {s : State} {k : PoolId} {b : BufferId} {rest : List BufferId} (free : (s.pool k).free = b :: rest) (st : StreamId) :
    grant k st b s = (s.modPool k fun q => { q with free := rest }).modBuffer b
      fun r => { r with state := .filling, generation := r.generation + 1, stream := some st } := by
  unfold grant
  rw [modPool_congr (g := fun q => { q with free := rest })]
  rw [free, List.erase_cons_head]

theorem grantData_grant (k : PoolId) (st : StreamId) (b : BufferId) (s : State) : grantData b ((grant k st b s).buffer b) =
    [byte b.val, (s.buffer b).generation + 1] ++ bytes32 (s.buffer b).handle ++ bytes16 (s.buffer b).layout := by
  simp [grantData, grant]

/-- The parking of an ACQUIRE whose frame has just been taken. -/
theorem park_taken (s : State) (p : Port) (tag : Byte) (payload : List Byte) (st : StreamId) (wait : Nat) :
    park p tag st wait (s.taken p tag 0x40 payload) =
      (((s.taken p tag 0x40 payload).modStream st fun x =>
        { x with parked := some { tag := tag, remaining := wait * 10 } }).modPool (s.stream st).pool fun k =>
          { k with wait := k.wait ++ [st] }).modPort p fun r =>
            { r with replay := if s.recorded p tag 0x40 then r.replay.map fun m => { m with parkedOn := some st } else r.replay } := by
  refine modPort_congr _ _ _ ?_
  have records : (((s.taken p tag 0x40 payload).port p).records tag acquireCode) = s.recorded p tag 0x40 := by
    simp [PortRecord.records, State.recorded, acquireCode, codeOf]
  simp only [modPool_port, modStream_port, records]

/-- Settles O34, by the seven checks of R45 in their order, then by the free list and the wait. -/
theorem acquireGrantsOrParks : Obligations.AcquireGrantsOrParks := by
  intro s p tag wait
  refine ⟨fun n hn h => exec_refuses (name := .acquire) h (acquireRequest_range hn), ?_⟩
  intro st payload x h
  refine ⟨fun closed => exec_refuses (name := .acquire) h (acquireRequest_noSuch closed),
    fun draining => exec_refuses (name := .acquire) h (acquireRequest_closed draining), fun hx => ?_⟩
  have running : (s.stream st).state ≠ .closed ∧ (s.stream st).state ≠ .draining := by
    rcases hx with hx | hx <;> simp [show (s.stream st).state = _ from hx]
  refine ⟨fun other => ?_, fun producer full => ?_, fun k producer room parked => ?_, fun producer room unparked empty none => ?_,
    fun b rest producer room unparked free => ?_, fun producer room unparked empty patient => ?_⟩
  · exact exec_refuses (name := .acquire) h (acquireRequest_denied running other)
  · exact exec_refuses (name := .acquire) h (acquireRequest_quota running producer full)
  · exact exec_responds (name := .acquire) h
      (acquireRequest_alreadyWaiting (s := s.taken p tag 0x40 payload) running producer room parked)
  · subst none
    exact exec_refuses (name := .acquire) h (acquireRequest_exhausted running producer room unparked empty)
  · have body := acquireRequest_grants (s := s.taken p tag 0x40 payload) (tag := tag) (wait := wait) running producer room unparked free
    rw [grantData_grant, grant_head (s := s.taken p tag 0x40 payload) (k := ((s.taken p tag 0x40 payload).stream st).pool) free] at body
    exact exec_responds (name := .acquire) h body
  · have body := acquireRequest_parks (s := s.taken p tag 0x40 payload) (tag := tag) running producer room unparked empty patient
    rw [park_taken] at body
    exact exec_parks (name := .acquire) h body

/-! ### The end of a parked ACQUIRE (R49, R50) -/

/-- The completion of a parked ACQUIRE, record by record. -/
theorem completeParked_eq {s : State} {st : StreamId} {k : Parked} {p : Port} (parked : (s.stream st).parked = some k)
    (producer : (s.stream st).producer = some p) (reply : Reply) : completeParked st reply s =
      ((s.modPool (s.stream st).pool fun q => { q with wait := q.wait.erase st }).modStream st fun x =>
        { x with parked := none }).modPort p fun r =>
          { r with responses := r.responses ++ [⟨k.tag, 0x40, reply.result, reply.data⟩],
                   replay := r.replay.map fun m => if m.parkedOn = some st then
                       { m with copy := some ⟨k.tag, 0x40, reply.result, reply.data⟩, parkedOn := none } else m } := by
  unfold completeParked
  rw [parked, producer]
  exact modPort_modPort ..

/-- Settles O35: both ends are a `completeParked`, guarded by the field and its remaining wait. -/
theorem parkedAcquireEnds : Obligations.ParkedAcquireEnds := by
  intro s st
  refine ⟨fun unparked => ⟨?_, ?_⟩, ?_⟩
  · exact congrArg Host.Outcome.next (if_neg (by simp [unparked]))
  · exact if_neg (by simp [unparked])
  intro k p parked producer ended
  refine ⟨fun elapsed => ?_, fun left => ?_, ?_⟩
  · exact congrArg Host.Outcome.next ((if_pos (by simp [parked, elapsed])).trans (completeParked_eq parked producer _))
  · exact congrArg Host.Outcome.next (if_neg (by simp [parked, left]))
  · exact (if_pos (by simp [parked])).trans (completeParked_eq parked producer _)

/-! ### ABANDON (R59, R60) -/

section abandon
variable {s : State} {p : Port} {b : BufferId} {g : Byte}

theorem abandonRequest_range {n : Byte} (h : 63 < n.toNat) : abandonRequest p [n, g] s = refuse .range s := by
  simp [abandonRequest, index?_none (n := 64) h]

theorem abandonRequest_stale (stale : (s.buffer b).generation ≠ g) : abandonRequest p [byte b.val, g] s = refuse .stale s := by
  simp [abandonRequest, stale]

section fresh
variable (fresh : (s.buffer b).generation = g)
include fresh

theorem abandonRequest_badState (other : (s.buffer b).state ≠ .filling) : abandonRequest p [byte b.val, g] s = refuse .badState s := by
  simp [abandonRequest, fresh, other]

theorem abandonRequest_denied (filling : (s.buffer b).state = .filling)
    (foreign : ∀ st, (s.buffer b).stream = some st → (s.stream st).producer ≠ some p) :
    abandonRequest p [byte b.val, g] s = refuse .denied s := by
  cases hs : (s.buffer b).stream with
  | none => simp [abandonRequest, fresh, filling, hs]
  | some st => simp [abandonRequest, fresh, filling, hs, foreign st hs]

theorem abandonRequest_ok {st : StreamId} (filling : (s.buffer b).state = .filling) (bound : (s.buffer b).stream = some st)
    (own : (s.stream st).producer = some p) : abandonRequest p [byte b.val, g] s = okWith [] (drainTest st (release b s)) := by
  simp [abandonRequest, fresh, filling, bound, own]

end fresh

end abandon

/-- Settles O36, by the four checks in the order of R59. -/
theorem abandonReleasesBuffer : Obligations.AbandonReleasesBuffer := by
  intro s p tag g
  refine ⟨fun n hn h => exec_refuses (name := .abandon) h (abandonRequest_range hn), fun b h =>
    ⟨fun stale => ?_, fun fresh other => ?_, fun fresh filling foreign => ?_, fun st fresh filling bound own => ?_⟩⟩
  · exact exec_refuses (name := .abandon) h (abandonRequest_stale stale)
  · exact exec_refuses (name := .abandon) h (abandonRequest_badState fresh other)
  · exact exec_refuses (name := .abandon) h (abandonRequest_denied fresh filling foreign)
  · exact exec_answers_ok (name := .abandon) h (abandonRequest_ok (s := s.taken p tag 0x41 _) fresh filling bound own)

/-! ### The arbiter (R46, R52, R53) -/

section chooseWaiter
variable {s : State} {queue l₁ l₂ : List StreamId} {st : StreamId}

/-- A stream below its quota is eligible by its reserve unless the reserve is reached. -/
theorem belowReserve_iff {u : StreamId} : (belowReserve s u && belowQuota s u) = false ↔
    (s.stream u).quota ≤ s.outstanding u ∨ (s.stream u).reserve ≤ s.outstanding u := by
  simp only [belowReserve, belowQuota, Bool.and_eq_false_iff, decide_eq_false_iff_not, Nat.not_lt, or_comm]

theorem chooseWaiter_none (h : ∀ st ∈ queue, (s.stream st).quota ≤ s.outstanding st) : chooseWaiter queue s = none := by
  have reserves : queue.find? (fun st => belowReserve s st && belowQuota s st) = none := by
    simp only [List.find?_eq_none, Bool.not_eq_true, belowReserve_iff]
    exact fun st hst => .inl (h st hst)
  have quotas : queue.find? (belowQuota s) = none := by
    simp only [List.find?_eq_none, belowQuota, decide_eq_true_eq, Nat.not_lt]
    exact h
  simp only [chooseWaiter, reserves, quotas]

theorem chooseWaiter_of_reserve (quota : s.outstanding st < (s.stream st).quota) (reserve : s.outstanding st < (s.stream st).reserve)
    (first : ∀ u ∈ l₁, (s.stream u).quota ≤ s.outstanding u ∨ (s.stream u).reserve ≤ s.outstanding u) :
    chooseWaiter (l₁ ++ st :: l₂) s = some st := by
  have found : (l₁ ++ st :: l₂).find? (fun st => belowReserve s st && belowQuota s st) = some st := by
    refine List.find?_eq_some_iff_append.mpr ⟨by simp [belowReserve, belowQuota, quota, reserve], l₁, l₂, rfl, fun u hu => ?_⟩
    rw [belowReserve_iff.mpr (first u hu)]
    rfl
  simp only [chooseWaiter, found]

theorem chooseWaiter_of_quota (quota : s.outstanding st < (s.stream st).quota)
    (reserves : ∀ u ∈ l₁ ++ st :: l₂, (s.stream u).quota ≤ s.outstanding u ∨ (s.stream u).reserve ≤ s.outstanding u)
    (first : ∀ u ∈ l₁, (s.stream u).quota ≤ s.outstanding u) : chooseWaiter (l₁ ++ st :: l₂) s = some st := by
  have none : (l₁ ++ st :: l₂).find? (fun st => belowReserve s st && belowQuota s st) = none := by
    simp only [List.find?_eq_none, Bool.not_eq_true, belowReserve_iff]
    exact reserves
  have found : (l₁ ++ st :: l₂).find? (belowQuota s) = some st := by
    refine List.find?_eq_some_iff_append.mpr ⟨by simp [belowQuota, quota], l₁, l₂, rfl, fun u hu => ?_⟩
    simp [belowQuota, first u hu]
  simp only [chooseWaiter, none, found]

end chooseWaiter

theorem runArbiter_of_stuck {s : State} {k : PoolId} (h : (s.pool k).free = [] ∨ chooseWaiter (s.pool k).wait s = none) :
    runArbiter k s = s := by
  unfold runArbiter arbiterLoop
  split
  · rfl
  · split
    next free chosen => simp_all
    next => rfl

/-- A grant of the head of the free list to a waiting stream, record by record. -/
theorem arbiterGrant_eq {s : State} {k : PoolId} {b : BufferId} {rest : List BufferId} {st : StreamId} {x : Parked} {p : Port}
    {others : List StreamId} (free : (s.pool k).free = b :: rest) (queue : (s.pool k).wait.erase st = others)
    (pool : (s.stream st).pool = k) (parked : (s.stream st).parked = some x) (producer : (s.stream st).producer = some p) :
    let response : Response := ⟨x.tag, 0x40, .ok, [byte b.val, (s.buffer b).generation + 1] ++
      bytes32 (s.buffer b).handle ++ bytes16 (s.buffer b).layout⟩
    arbiterGrant k st b s = (((s.modPool k fun q => { q with free := rest, wait := others }).modBuffer b fun r =>
      { r with state := .filling, generation := r.generation + 1, stream := some st }).modStream st fun y =>
        { y with parked := none }).modPort p fun r =>
          { r with responses := r.responses ++ [response],
                   replay := r.replay.map fun m => if m.parkedOn = some st then
                       { m with copy := some response, parkedOn := none } else m } := by
  intro response
  have pools : (s.modPool k fun q => { q with free := rest }).modPool k (fun q => { q with wait := q.wait.erase st }) =
      s.modPool k fun q => { q with free := rest, wait := others } := by
    rw [← queue]
    simp [State.modPool, State.pool, get_set_same]
  unfold arbiterGrant
  dsimp only
  rw [grantData_grant, grant_head free, ← pools]
  refine (completeParked_eq (k := x) (p := p) (by exact parked) (by exact producer) _).trans ?_
  simp only [modBuffer_stream, modPool_stream, pool]
  rfl

/-- One grant, and the arbiter chooses again. -/
theorem runArbiter_grant {s : State} {k : PoolId} {b : BufferId} {rest : List BufferId} {st : StreamId}
    (free : (s.pool k).free = b :: rest) (chosen : chooseWaiter (s.pool k).wait s = some st) (pool : (s.stream st).pool = k) :
    runArbiter k s = runArbiter k (arbiterGrant k st b s) := by
  have queued := (chooseWaiter_eligible chosen).1
  have count : (s.pool k).wait.length = ((arbiterGrant k st b s).pool k).wait.length + 1 := by
    have pos := List.length_pos_of_mem queued
    unfold arbiterGrant
    dsimp only
    rw [completeParked_pool, show ((grant k st b s).stream st).pool = k from pool, if_pos rfl]
    simp only [grant, modBuffer_pool, modPool_pool_same, List.length_erase_of_mem queued]
    omega
  unfold runArbiter
  rw [count, arbiterLoop, free, chosen]

/-- Settles O43: the arbiter's choice by the two passes of R52, its grant by `arbiterGrant_eq`. -/
theorem arbiterGrantsInOrder : Obligations.ArbiterGrantsInOrder := by
  intro s k
  refine ⟨fun st => ?_, fun h => runArbiter_of_stuck (h.imp_right chooseWaiter_none), ?_⟩
  · rw [outstanding_eq, allBuffers_eq, List.countP_eq_length_filter, Fin.univ_def]
    simp only [Finset.card_def, Finset.filter_val, Multiset.filter_coe, Multiset.coe_card]
    exact congrArg _ (List.filter_congr fun b _ => Bool.eq_iff_iff.mpr (by simp))
  intro b rest l₁ st l₂ x p free wait quota order pool parked producer response
  have chosen : chooseWaiter (s.pool k).wait s = some st := by
    rw [wait]
    rcases order with ⟨reserve, first⟩ | ⟨reserves, first⟩
    · exact chooseWaiter_of_reserve quota reserve first
    · exact chooseWaiter_of_quota quota (wait ▸ reserves) first
  have first : st ∉ l₁ := fun hst => by
    rcases order with ⟨reserve, first⟩ | ⟨_, first⟩
    · rcases first st hst with h | h <;> omega
    · have := first st hst
      omega
  have queue : (s.pool k).wait.erase st = l₁ ++ l₂ := by
    rw [wait, List.erase_append_right _ first, List.erase_cons_head]
  rw [runArbiter_grant free chosen pool, arbiterGrant_eq free queue pool parked producer]

end Sys2Proof.Machine
end

section
/-!
PROOFS. The operations over entries, buffers and slots: settling, release, holds, what a LEAVE and a stream step make of a stream, and
the drain completion test.
-/

namespace Sys2Proof.Machine

/-! ### Settling (R77 to R80) -/

theorem covers_iff {x y : SlotSet} : x.covers y = true ↔ ∀ c, y.has c = true → x.has c = true := by
  rw [forall_slot]
  simp only [SlotSet.covers, SlotSet.has, Bool.and_eq_true, Bool.or_eq_true, Bool.not_eq_true', imp_iff_not_or, Bool.not_eq_true, and_assoc]

theorem occupied_has (x : Stream) (c : SlotId) : x.occupied.has c = (x.slot c).occupied := by
  match c with
  | 0 | 1 | 2 => rfl

/-- Two entries of a list without repeats that describe one buffer are one entry. -/
theorem entry_unique {l : List Entry} (once : (l.map Entry.buffer).Nodup) {d e : Entry} (hd : d ∈ l) (he : e ∈ l)
    (same : d.buffer = e.buffer) : d = e :=
  List.inj_on_of_nodup_map once hd he same

theorem settledLatest_sublist (occupied : SlotSet) (l : List Entry) : (settledLatest occupied l).Sublist (l.map Entry.buffer) := by
  induction l with
  | nil => exact .slnil
  | cons e l ih =>
    unfold settledLatest
    split
    · exact ih.cons_cons _
    · exact ih.cons _

/-- Under LATEST an entry is settled by what it is and by the entries behind it; those before it do not matter. -/
theorem mem_settledLatest {occupied : SlotSet} {l₁ l₂ : List Entry} {e : Entry} (once : ((l₁ ++ e :: l₂).map Entry.buffer).Nodup) :
    e.buffer ∈ settledLatest occupied (l₁ ++ e :: l₂) ↔
      e.signalled = true ∧ e.passed.covers occupied = true ∧ ∃ d ∈ l₂, d.signalled = true := by
  induction l₁ with
  | nil =>
    have fresh : e.buffer ∉ settledLatest occupied l₂ := fun h =>
      (List.nodup_cons.mp once).1 ((settledLatest_sublist occupied l₂).subset h)
    simp only [List.nil_append, settledLatest]
    split
    next h => simpa [and_assoc] using h
    next h => simpa [fresh, and_assoc] using h
  | cons d l₁ ih =>
    obtain ⟨fresh, once⟩ := List.nodup_cons.mp once
    have other : e.buffer ≠ d.buffer := fun same => fresh (by rw [← same]; simp)
    rw [← ih once]
    simp only [List.cons_append, settledLatest]
    split
    next => simp [other]
    next => rfl

theorem mem_settledEvery {occupied : SlotSet} {l : List Entry} {e : Entry} (once : (l.map Entry.buffer).Nodup) (he : e ∈ l) :
    e.buffer ∈ settledEvery occupied l ↔ e.signalled = true ∧ occupied.nonempty = true ∧ e.passed.covers occupied = true := by
  simp only [settledEvery, List.mem_map, List.mem_filter, Bool.and_eq_true, and_assoc]
  constructor
  · rintro ⟨d, hd, signalled, some, passed, same⟩
    obtain rfl := entry_unique once hd he same
    exact ⟨signalled, some, passed⟩
  · rintro ⟨signalled, some, passed⟩
    exact ⟨e, he, signalled, some, passed, rfl⟩

theorem settled_sublist (x : Stream) : x.settled.Sublist (x.list.map Entry.buffer) := by
  unfold Stream.settled
  split
  · exact settledLatest_sublist _ _
  · exact List.filter_sublist.map _

theorem without_eq (l : List Entry) (bs : List BufferId) : without l bs = l.filter fun e => decide (e.buffer ∉ bs) := by
  simp [without]

/-- Settles O40, with the buffers that the model computes: their membership by policy, their order that of the list. -/
theorem settlingRemovesUnneededEntries : Obligations.SettlingRemovesUnneededEntries := by
  intro s st once
  have covered (e : Entry) : e.passed.covers (s.stream st).occupied = true ↔
      ∀ c, ((s.stream st).slot c).occupied = true → e.passed.has c = true := by
    simp only [covers_iff, occupied_has]
  refine ⟨(s.stream st).settled, ?_, settled_sublist _, fun l₁ e l₂ list latest => ?_, fun e he every => ?_⟩
  · unfold settle removeEntries
    simp only [without_eq]
  · rw [list] at once
    simp only [Stream.settled, latest, list]
    rw [mem_settledLatest once, covered]
  · simp only [Stream.settled, every]
    rw [mem_settledEvery once he, nonempty_occupied, covered]

/-! ### Release, holds, judgement (R7, R8, R9, R64) -/

section release
variable {s : State} {b : BufferId} {k : PoolId}

theorem release_of_kept (inUse : (s.buffer b).state.inUse = true) (pool : (s.buffer b).pool = some k)
    (kept : (s.buffer b).retiring = false) : release b s =
      runArbiter k (noticeRecycled b (s.buffer b) ((s.modBuffer b fun q => { q with state := .free, stream := none }).modPool k
        fun q => { q with free := q.free ++ [b] })) := by
  simp only [release, inUse, pool, kept, Bool.false_eq_true, if_false]

theorem release_of_retiring (inUse : (s.buffer b).state.inUse = true) (pool : (s.buffer b).pool = some k)
    (retiring : (s.buffer b).retiring = true) : release b s =
      noticeRecycled b (s.buffer b) ((s.modBuffer b Buffer.unregistered).modPool k
        fun q => { q with registered := q.registered - 1 }) := by
  simp only [release, inUse, pool, retiring, if_true]

theorem dropHold_of_last (held : (s.buffer b).state = .held) (last : (s.buffer b).holds ≤ 1) :
    dropHold b s = release b (s.modBuffer b fun r => { r with holds := 0 }) := by
  have none : (s.buffer b).holds - 1 = 0 := by omega
  have same : s.modBuffer b (fun r => { r with holds := r.holds - 1 }) = s.modBuffer b fun r => { r with holds := 0 } :=
    modBuffer_congr (by simp only [none])
  simp [dropHold, same, held]

theorem dropHold_of_kept (h : (s.buffer b).state ≠ .held ∨ 1 < (s.buffer b).holds) :
    dropHold b s = s.modBuffer b fun r => { r with holds := r.holds - 1 } := by
  refine if_neg ?_
  rw [modBuffer_buffer_same]
  rintro ⟨held, zero⟩
  dsimp only at held zero
  rcases h with h | h
  · exact h held
  · omega

theorem unlist_of_unheld (published : (s.buffer b).state = .published) (unheld : (s.buffer b).holds = 0) :
    unlist b s = release b s := by
  simp [unlist, published, unheld]

theorem unlist_of_held (published : (s.buffer b).state = .published) (held : (s.buffer b).holds ≠ 0) :
    unlist b s = s.modBuffer b fun r => { r with state := .held } := by
  simp [unlist, published, held]

end release

/-- Settles O41: the cases of each operation in turn. -/
theorem releaseAndHoldsMoveBuffers : Obligations.ReleaseAndHoldsMoveBuffers := by
  intro s b
  refine ⟨?_, rfl, dropHold_of_last, dropHold_of_kept, unlist_of_unheld, unlist_of_held, rfl, fun rest => rfl⟩
  intro k st hstate pool bound recycled
  have inUse : (s.buffer b).state.inUse = true := by
    rcases hstate with h | h | h <;> simp [h, BufferState.inUse]
  have notice (t : State) (ht : t.stream st = s.stream st) : noticeRecycled b (s.buffer b) t = recycled t := by
    simp only [noticeRecycled, bound, ht]
    rfl
  refine ⟨fun kept => ?_, fun retiring => ?_⟩
  · exact (release_of_kept inUse pool kept).trans (congrArg _ (notice _ (by rfl)))
  · exact (release_of_retiring inUse pool retiring).trans (notice _ (by rfl))

/-! ### What a LEAVE and a stream step make of a stream (R35, R101, R147 to R149) -/

theorem fillings_nodup (s : State) (st : StreamId) : (s.fillings st).Nodup := by
  unfold State.fillings
  rw [allBuffers_eq]
  exact (List.nodup_finRange 64).filter _

/-- The entries whose buffers are those of the unsignalled ones are the unsignalled ones. -/
theorem without_unsignalled {x : Stream} (once : (x.list.map Entry.buffer).Nodup) {bs : List BufferId} (perm : bs.Perm x.unsignalled) :
    without x.list bs = x.list.filter fun e => e.signalled := by
  rw [without_eq]
  refine List.filter_congr fun e he => ?_
  have only : (∃ d ∈ x.list, d.signalled = false ∧ d.buffer = e.buffer) ↔ e.signalled = false := by
    refine ⟨?_, fun unsignalled => ⟨e, he, unsignalled, rfl⟩⟩
    rintro ⟨d, hd, unsignalled, same⟩
    rwa [← entry_unique once hd he same]
  simp [perm.mem_iff, mem_unsignalled, only]

/-- Settles O42: the model's own orders are the orders claimed. -/
theorem leavingMovesBuffersAndClearsSlots : Obligations.LeavingMovesBuffersAndClearsSlots := by
  intro s st
  refine ⟨⟨someOrder s (s.fillings st), ?_, fun b => ?_, rfl⟩, fun once => ⟨someOrder s (s.stream st).unsignalled, someOrder_perm _ _, ?_⟩,
    fun c => ?_⟩
  · exact (someOrder_perm s _).nodup_iff.mpr (fillings_nodup s st)
  · rw [(someOrder_perm s _).mem_iff, mem_fillings]
  · unfold removeUnsignalled removeEntries
    refine congrArg _ (modStream_congr ?_)
    rw [show (chosen s).stream st = s.stream st from rfl, without_unsignalled once (someOrder_perm _ _)]
  · have addressed : (clearSlot st c s).addressed = s.addressed.filter fun a => decide (a ≠ (st, c)) := by
      rw [(follows_clearSlot st c s).addressed]
      exact List.filter_congr fun a _ => Bool.eq_iff_iff.mpr (by simp)
    exact congrArg (fun l => { clearSlot st c s with addressed := l }) addressed

/-! ### The drain completion test (R40) -/

/-- Settles O44, by `drained_iff`. -/
theorem drainCompletesWhenEmpty : Obligations.DrainCompletesWhenEmpty := by
  intro s st
  refine ⟨fun draining unproduced unoccupied unbound => ?_, fun h => ?_⟩
  · have drained : s.drained st = true := drained_iff.mpr ⟨draining, unproduced, unoccupied, unbound⟩
    unfold drainTest
    rw [if_pos drained]
    rfl
  · refine if_neg fun drained => ?_
    obtain ⟨draining, unproduced, unoccupied, unbound⟩ := drained_iff.mp drained
    rcases h with h | h | ⟨c, h⟩ | ⟨b, h⟩
    · exact h draining
    · exact h unproduced
    · simp [unoccupied c] at h
    · exact unbound b h

end Sys2Proof.Machine
end

section
/-!
PROOFS. Publication (spec/04_publication_and_the_pending_list.md): PUBLISH, SIGNAL and the expiry of a signal deadline.
-/

namespace Sys2Proof.Machine

/-! ### Entries by their buffers (R6, R63) -/

section list
variable {l₁ l₂ : List Entry} {e : Entry} (once : ((l₁ ++ e :: l₂).map Entry.buffer).Nodup)
include once

/-- No other entry of the list describes the entry's buffer. -/
theorem buffer_ne_of_once {d : Entry} (hd : d ∈ l₁ ∨ d ∈ l₂) : d.buffer ≠ e.buffer := by
  rw [List.map_append, List.map_cons, List.nodup_append, List.nodup_cons] at once
  obtain ⟨-, ⟨behind, -⟩, before⟩ := once
  rcases hd with hd | hd
  · exact before _ (List.mem_map_of_mem hd) _ List.mem_cons_self
  · exact fun same => behind (same ▸ List.mem_map_of_mem hd)

theorem without_entry : without (l₁ ++ e :: l₂) [e.buffer] = l₁ ++ l₂ := by
  have kept {l : List Entry} (h : ∀ d ∈ l, d.buffer ≠ e.buffer) : without l [e.buffer] = l :=
    List.filter_eq_self.mpr fun d hd => by simpa using h d hd
  have split : without (l₁ ++ e :: l₂) [e.buffer] = without l₁ [e.buffer] ++ without l₂ [e.buffer] := by
    simp [without, List.filter_append]
  rw [split, kept fun d hd => buffer_ne_of_once once (.inl hd), kept fun d hd => buffer_ne_of_once once (.inr hd)]

theorem entryOf_eq_some : entryOf (l₁ ++ e :: l₂) e.buffer = some e :=
  List.find?_eq_some_iff_append.mpr ⟨by simp, l₁, l₂, rfl, fun d hd => by simpa using buffer_ne_of_once once (.inl hd)⟩

theorem markSignalled_eq :
    markSignalled e.buffer (l₁ ++ e :: l₂) = l₁ ++ { e with signalled := true, deadline := none } :: l₂ := by
  have kept {l : List Entry} (h : ∀ d ∈ l, d.buffer ≠ e.buffer) : markSignalled e.buffer l = l :=
    (List.map_congr_left fun d hd => if_neg (h d hd)).trans (List.map_id l)
  have split : markSignalled e.buffer (l₁ ++ e :: l₂) =
      markSignalled e.buffer l₁ ++ { e with signalled := true, deadline := none } :: markSignalled e.buffer l₂ := by
    simp [markSignalled]
  rw [split, kept fun d hd => buffer_ne_of_once once (.inl hd), kept fun d hd => buffer_ne_of_once once (.inr hd)]

end list

/-! ### PUBLISH (R65 to R71) -/

theorem flag?_none {f : Byte} (h : 1 < f.toNat) : flag? f = none := by
  unfold flag?
  split_ifs with zero one
  · simp [zero] at h
  · simp [one] at h
  · rfl

theorem flag?_flag (signalled : Bool) : flag? (if signalled then 1 else 0) = some signalled := by
  cases signalled <;> rfl

theorem publishRequest_range {i f : Byte} (h : 63 < i.toNat ∨ 1 < f.toNat) (p : Port) (g : Byte) (s : State) :
    publishRequest p [i, g, f] s = refuse .range s := by
  rcases h with h | h
  · simp [publishRequest, index?_none (n := 64) h]
  · simp [publishRequest, flag?_none h]

section publish
variable {s : State} {p : Port} {b : BufferId} {g f : Byte} {sig : Bool} (flag : flag? f = some sig)
include flag

theorem publishRequest_stale (stale : (s.buffer b).generation ≠ g) :
    publishRequest p [byte b.val, g, f] s = refuse .stale s := by
  simp [publishRequest, flag, stale]

section fresh
variable (fresh : (s.buffer b).generation = g)
include fresh

theorem publishRequest_badState (other : (s.buffer b).state ≠ .filling) :
    publishRequest p [byte b.val, g, f] s = refuse .badState s := by
  simp [publishRequest, flag, fresh, other]

section filling
variable (filling : (s.buffer b).state = .filling)
include filling

theorem publishRequest_denied (foreign : ∀ st, (s.buffer b).stream = some st → (s.stream st).producer ≠ some p) :
    publishRequest p [byte b.val, g, f] s = refuse .denied s := by
  cases hs : (s.buffer b).stream with
  | none => simp [publishRequest, flag, fresh, filling, hs]
  | some st => simp [publishRequest, flag, fresh, filling, hs, foreign st hs]

section own
variable {st : StreamId} (bound : (s.buffer b).stream = some st) (own : (s.stream st).producer = some p)
include bound own

theorem publishRequest_draining (draining : (s.stream st).state = .draining) :
    publishRequest p [byte b.val, g, f] s = refuse .closed (drainTest st (release b s)) := by
  simp [publishRequest, flag, fresh, filling, bound, own, draining]

theorem publishRequest_full (running : (s.stream st).state ≠ .draining) (full : publishInto st b sig s = none) :
    publishRequest p [byte b.val, g, f] s = refuse .full s := by
  simp [publishRequest, flag, fresh, filling, bound, own, running, full]

theorem publishRequest_ok {t : State} (running : (s.stream st).state ≠ .draining) (into : publishInto st b sig s = some t) :
    publishRequest p [byte b.val, g, f] s =
      okWith (bytes16 (s.stream st).nextSequence ++ [byte (t.stream st).list.length]) t := by
  simp [publishRequest, flag, fresh, filling, bound, own, running, into]

end own

end filling

end fresh

end publish

section publishInto
variable {s : State} {st : StreamId} {b : BufferId} {sig : Bool}

theorem publishInto_room (room : (s.stream st).list.length < (s.stream st).depth) :
    publishInto st b sig s = some (append st b sig s) := by
  simp [publishInto, Stream.full, Nat.not_le.mpr room]

theorem publishInto_refused (full : (s.stream st).depth ≤ (s.stream st).list.length)
    (h : (s.stream st).policy = .every ∨ ∀ e ∈ (s.stream st).list, e.signalled = false) : publishInto st b sig s = none := by
  have isFull : (s.stream st).full = true := decide_eq_true full
  rcases h with every | unsignalled
  · simp [publishInto, isFull, every]
  · have none : oldestSignalled (s.stream st).list = none := by
      simpa [oldestSignalled, List.find?_eq_none] using unsignalled
    simp [publishInto, isFull, none]

theorem publishInto_drop {e : Entry} (full : (s.stream st).depth ≤ (s.stream st).list.length) (latest : (s.stream st).policy = .latest)
    (oldest : oldestSignalled (s.stream st).list = some e) :
    publishInto st b sig s = some (append st b sig (dropEntry st e s)) := by
  have isFull : (s.stream st).full = true := decide_eq_true full
  simp [publishInto, isFull, latest, oldest]

theorem oldestSignalled_eq {l₁ l₂ : List Entry} {e : Entry} (signalled : e.signalled = true) (first : ∀ d ∈ l₁, d.signalled = false) :
    oldestSignalled (l₁ ++ e :: l₂) = some e :=
  List.find?_eq_some_iff_append.mpr ⟨signalled, l₁, l₂, rfl, fun d hd => by simp [first d hd]⟩

/-- The drop of R68, its entry named by its place in the list. -/
theorem dropEntry_eq {l₁ l₂ : List Entry} {e : Entry} {p : Port} (list : (s.stream st).list = l₁ ++ e :: l₂)
    (once : ((s.stream st).list.map Entry.buffer).Nodup) (producer : (s.stream st).producer = some p) :
    let u := s.modStream st fun y => { y with list := l₁ ++ l₂, dropped := y.dropped + 1 }
    dropEntry st e s = unlist e.buffer (if e.shown then u else queueNotice p
      (.dropped st e.buffer (s.buffer e.buffer).generation e.sequence) u) := by
  intro u
  have removed : s.modStream st (fun y => { y with list := without y.list [e.buffer], dropped := y.dropped + 1 }) = u :=
    modStream_congr (by rw [list] at once ⊢; rw [without_entry once])
  have named : (u.stream st).producer = some p := by
    rw [modStream_stream_same]
    exact producer
  unfold dropEntry
  simp only [removed, named]
  rfl

end publishInto

/-- Settles O37, by the checks of R65 in their order, then by the room in the list and the policy. -/
theorem publishAppendsDropsOrRefuses : Obligations.PublishAppendsDropsOrRefuses := by
  intro s p tag i g f h
  refine ⟨fun outside => exec_refuses (name := .publish) h (publishRequest_range outside p g _), ?_⟩
  rintro b sig rfl rfl refusal
  have flag := flag?_flag sig
  refine ⟨fun stale => ?_, fun fresh other => ?_, fun fresh filling foreign => ?_, ?_⟩
  · exact exec_refuses (name := .publish) h (publishRequest_stale flag stale)
  · exact exec_refuses (name := .publish) h (publishRequest_badState flag fresh other)
  · exact exec_refuses (name := .publish) h (publishRequest_denied flag fresh filling foreign)
  intro st fresh filling bound own x appended answer
  refine ⟨fun draining => ?_, fun running room => ?_, fun running full h' => ?_,
    fun l₁ e l₂ running full latest list signalled first once => ?_⟩
  · exact exec_responds (name := .publish) h
      (publishRequest_draining (s := s.taken p tag 0x42 _) flag fresh filling bound own draining)
  · exact exec_responds (name := .publish) h (publishRequest_ok (s := s.taken p tag 0x42 _) flag fresh filling bound own running
      (publishInto_room (s := s.taken p tag 0x42 _) room))
  · exact exec_refuses (name := .publish) h (publishRequest_full (s := s.taken p tag 0x42 _) flag fresh filling bound own running
      (publishInto_refused (s := s.taken p tag 0x42 _) full h'))
  · refine ⟨_, _, rfl, rfl, ?_⟩
    have oldest : oldestSignalled x.list = some e := by
      rw [list]
      exact oldestSignalled_eq signalled first
    have body := publishRequest_ok (s := s.taken p tag 0x42 [byte b.val, g, if sig then 1 else 0]) flag fresh filling
      bound own running (publishInto_drop (s := s.taken p tag 0x42 _) full latest oldest)
    rw [dropEntry_eq (s := s.taken p tag 0x42 _) list once own] at body
    exact exec_responds (name := .publish) h body

/-! ### SIGNAL (R72, R73) -/

section signal
variable {s : State} {p : Port} {b : BufferId} {g : Byte}

theorem signalRequest_range {n : Byte} (h : 63 < n.toNat) : signalRequest p [n, g] s = refuse .range s := by
  simp [signalRequest, index?_none (n := 64) h]

theorem signalRequest_stale (stale : (s.buffer b).generation ≠ g) : signalRequest p [byte b.val, g] s = refuse .stale s := by
  simp [signalRequest, stale]

theorem signallingPort_eq (x : Stream) : x.signallingPort = x.signaller.or x.producer := by
  unfold Stream.signallingPort
  cases x.signaller <;> rfl

section fresh
variable (fresh : (s.buffer b).generation = g)
include fresh

theorem signalRequest_unpublished (other : (s.buffer b).state ≠ .published) :
    signalRequest p [byte b.val, g] s = refuse .badState s := by
  simp [signalRequest, fresh, other]

section published
variable {st : StreamId} (published : (s.buffer b).state = .published) (bound : (s.buffer b).stream = some st)
include published bound

theorem signalRequest_denied (foreign : (s.stream st).signaller.or (s.stream st).producer ≠ some p) :
    signalRequest p [byte b.val, g] s = refuse .denied s := by
  simp [signalRequest, fresh, published, bound, signallingPort_eq, foreign]

section own
variable {e : Entry} (own : (s.stream st).signaller.or (s.stream st).producer = some p)
  (found : entryOf (s.stream st).list b = some e)
include own found

theorem signalRequest_signalled (signalled : e.signalled = true) : signalRequest p [byte b.val, g] s = refuse .badState s := by
  simp [signalRequest, fresh, published, bound, signallingPort_eq, own, found, signalled]

theorem signalRequest_ok (unsignalled : e.signalled = false) : signalRequest p [byte b.val, g] s =
    okWith (bytes16 e.sequence) (settle st (s.modStream st fun x => { x with list := markSignalled b x.list })) := by
  simp [signalRequest, fresh, published, bound, signallingPort_eq, own, found, unsignalled]

end own

end published

end fresh

end signal

/-- Settles O38, by the five checks in the order of R72. -/
theorem signalCompletesEntry : Obligations.SignalCompletesEntry := by
  intro s p tag g
  refine ⟨fun n hn h => exec_refuses (name := .signal) h (signalRequest_range hn), fun b h =>
    ⟨fun stale => ?_, fun fresh other => ?_, fun st fresh published bound => ⟨fun foreign => ?_, ?_⟩⟩⟩
  · exact exec_refuses (name := .signal) h (signalRequest_stale stale)
  · exact exec_refuses (name := .signal) h (signalRequest_unpublished fresh other)
  · exact exec_refuses (name := .signal) h (signalRequest_denied fresh published bound foreign)
  rintro l₁ e l₂ own list rfl once
  rw [list] at once
  have found : entryOf (s.stream st).list e.buffer = some e := by
    rw [list]
    exact entryOf_eq_some once
  refine ⟨fun signalled => ?_, fun unsignalled => ?_⟩
  · exact exec_refuses (name := .signal) h (signalRequest_signalled fresh published bound own found signalled)
  · have body := signalRequest_ok (s := s.taken p tag 0x43 [byte e.buffer.val, g]) fresh published bound own found unsignalled
    have marked : (s.taken p tag 0x43 [byte e.buffer.val, g]).modStream st
        (fun x => { x with list := markSignalled e.buffer x.list }) =
        (s.taken p tag 0x43 [byte e.buffer.val, g]).modStream st fun x =>
          { x with list := l₁ ++ { e with signalled := true, deadline := none } :: l₂ } :=
      modStream_congr (by rw [taken_stream, list, markSignalled_eq once])
    rw [marked] at body
    exact exec_responds (name := .signal) h body

/-! ### The expiry of a signal deadline (R75) -/

/-- SIGNAL_EXPIRED goes to the signaller where one is configured and is not the producer. -/
theorem noticeExpired_eq (st : StreamId) (n : Notice) (s : State) : noticeExpired st n s =
    match (s.stream st).signaller with
    | some q => if (s.stream st).producer = some q then queueNoticeTo (s.stream st).producer n s
      else queueNotice q n (queueNoticeTo (s.stream st).producer n s)
    | none => queueNoticeTo (s.stream st).producer n s := by
  unfold noticeExpired
  dsimp only
  generalize (s.stream st).signaller = signaller
  cases signaller with
  | none => exact ite_self _
  | some q => exact if_congr eq_comm rfl rfl

/-- Settles O39: the entry named by the row is the one the model looks up. -/
theorem signalExpiryRemovesEntry : Obligations.SignalExpiryRemovesEntry := by
  intro s st b
  refine ⟨fun h => ?_, ?_⟩
  · refine congrArg Host.Outcome.next ?_
    split
    next e found =>
      have same : e.buffer = b := by simpa using List.find?_some found
      refine if_neg fun expired => ?_
      rcases h e (List.mem_of_find?_eq_some found) same with signalled | running
      · simp [signalled] at expired
      · exact running expired.2
    next => rfl
  rintro l₁ e l₂ list rfl once unsignalled expired n u v w
  rw [list] at once
  have found : entryOf (s.stream st).list e.buffer = some e := by
    rw [list]
    exact entryOf_eq_some once
  have removed : s.modStream st (fun x => { x with list := without x.list [e.buffer], expired := x.expired + 1 }) = u :=
    modStream_congr (by rw [list, without_entry once])
  have noticed : noticeExpired st n u = w := by
    rw [noticeExpired_eq, modStream_stream_same]
    rfl
  have expiry : expireEntry st e s = settle st (unlist e.buffer w) := by
    rw [← noticed]
    unfold expireEntry
    simp only [removed]
    rfl
  rw [← expiry]
  refine congrArg Host.Outcome.next ?_
  simp only [found, unsignalled, expired, and_self, if_true]

end Sys2Proof.Machine
end

section
/-!
PROOFS. Presentation (spec/06_presentation.md): JOIN_CONSUMER, RETUNE_CONSUMER, and a boundary taken at a slot.
-/

namespace Sys2Proof.Machine

/-! ### JOIN_CONSUMER (R97, R98) -/

theorem source?_code (source : Source) : source? source.code = some source := by
  match source with
  | .line | .timer 0 | .timer 1 | .timer 2 | .timer 3 => rfl

theorem source?_none {f : Byte} (h : 4 < f.toNat) : source? f = none := by
  have nonzero : f ≠ 0#8 := by rintro rfl; simp at h
  have high : 4 - 1 < (f - 1).toNat := by bv_omega
  unfold source?
  rw [if_neg nonzero, index?_none (n := 4) high]

section joinConsumer
variable {s : State} {p : Port} {f threshold : Byte} {st : StreamId}

theorem joinConsumerRequest_range {n : Byte} (h : 15 < n.toNat) : joinConsumerRequest p [n, f, threshold] s = refuse .range s := by
  simp [joinConsumerRequest, index?_none (n := 16) h]

theorem joinConsumerRequest_noSuch (closed : (s.stream st).state = .closed) :
    joinConsumerRequest p [byte st.val, f, threshold] s = refuse .noSuch s := by
  simp [joinConsumerRequest, closed]

theorem joinConsumerRequest_sourceless (opened : (s.stream st).state ≠ .closed) (none : source? f = none) :
    joinConsumerRequest p [byte st.val, f, threshold] s = refuse .range s := by
  simp [joinConsumerRequest, opened, none]

section sourced
variable {source : Source} (sourced : source? f = some source)
include sourced

theorem joinConsumerRequest_draining (draining : (s.stream st).state = .draining) :
    joinConsumerRequest p [byte st.val, f, threshold] s = refuse .badState s := by
  simp [joinConsumerRequest, sourced, draining]

section running
variable (running : (s.stream st).state ≠ .closed ∧ (s.stream st).state ≠ .draining)
include running

theorem joinConsumerRequest_denied (excluded : admits (s.stream st).consumerMask p = false) :
    joinConsumerRequest p [byte st.val, f, threshold] s = refuse .denied s := by
  simp [joinConsumerRequest, sourced, running, excluded]

section admitted
variable (admitted : admits (s.stream st).consumerMask p = true)
include admitted

theorem joinConsumerRequest_member (member : (s.stream st).isMember p = true) :
    joinConsumerRequest p [byte st.val, f, threshold] s = refuse .badState s := by
  simp [joinConsumerRequest, sourced, running, admitted, member]

theorem joinConsumerRequest_noSlot (stranger : (s.stream st).isMember p = false) (none : (s.stream st).freeSlot = none) :
    joinConsumerRequest p [byte st.val, f, threshold] s = refuse .noSlot s := by
  simp [joinConsumerRequest, sourced, running, admitted, stranger, none]

theorem joinConsumerRequest_ok {c : SlotId} (stranger : (s.stream st).isMember p = false) (free : (s.stream st).freeSlot = some c) :
    joinConsumerRequest p [byte st.val, f, threshold] s = okWith [byte c.val, (s.stream st).policy.code]
      (s.modStream st fun y => y.modSlot c fun _ => joinedSlot p source threshold.toNat) := by
  simp [joinConsumerRequest, sourced, running, admitted, stranger, free]

end admitted

end running

end sourced

end joinConsumer

theorem isMember_eq_false {x : Stream} {p : Port} (producer : x.producer ≠ some p)
    (slots : ∀ c, (x.slot c).occupied = true → (x.slot c).port ≠ some p) : x.isMember p = false := by
  rw [← Bool.not_eq_true, isMember_eq_true]
  rintro (h | ⟨c, occupied, port⟩)
  · exact producer h
  · exact slots c occupied port

/-- Settles O45, by the seven checks in the order of R97. -/
theorem joinConsumerTakesLowestSlot : Obligations.JoinConsumerTakesLowestSlot := by
  intro s p tag n f threshold h refusal
  refine ⟨fun hn => exec_refuses (name := .joinConsumer) h (joinConsumerRequest_range hn), ?_⟩
  rintro st rfl
  refine ⟨fun closed => exec_refuses (name := .joinConsumer) h (joinConsumerRequest_noSuch closed),
    fun opened outside => exec_refuses (name := .joinConsumer) h (joinConsumerRequest_sourceless opened (source?_none outside)), ?_⟩
  rintro source rfl
  have sourced := source?_code source
  refine ⟨fun draining => exec_refuses (name := .joinConsumer) h (joinConsumerRequest_draining sourced draining), fun hstate => ?_⟩
  have running : (s.stream st).state ≠ .closed ∧ (s.stream st).state ≠ .draining := by
    rcases hstate with h | h <;> simp [h]
  refine ⟨fun excluded => ?_, fun admitted member => ?_, fun admitted other full => ?_,
    fun c admitted other slotless free lowest => ?_⟩
  · exact exec_refuses (name := .joinConsumer) h (joinConsumerRequest_denied sourced running excluded)
  · exact exec_refuses (name := .joinConsumer) h
      (joinConsumerRequest_member sourced running admitted (isMember_eq_true.mpr member))
  · exact exec_refuses (name := .joinConsumer) h (joinConsumerRequest_noSlot sourced running admitted
      (isMember_eq_false other fun c _ => (full c).2) (freeSlot_eq_none.mpr fun c => (full c).1))
  · exact exec_responds (name := .joinConsumer) h (joinConsumerRequest_ok (s := s.taken p tag 0x50 _) sourced running admitted
      (isMember_eq_false other slotless) (freeSlot_eq_some free lowest))

/-! ### RETUNE_CONSUMER (R100) -/

section retuneConsumer
variable {s : State} {p : Port} {f threshold : Byte} {st : StreamId}

theorem retuneConsumerRequest_range {n : Byte} (h : 15 < n.toNat) :
    retuneConsumerRequest p [n, f, threshold] s = refuse .range s := by
  simp [retuneConsumerRequest, index?_none (n := 16) h]

theorem retuneConsumerRequest_noSuch (closed : (s.stream st).state = .closed) :
    retuneConsumerRequest p [byte st.val, f, threshold] s = refuse .noSuch s := by
  simp [retuneConsumerRequest, closed]

theorem retuneConsumerRequest_sourceless (opened : (s.stream st).state ≠ .closed) (none : source? f = none) :
    retuneConsumerRequest p [byte st.val, f, threshold] s = refuse .range s := by
  simp [retuneConsumerRequest, opened, none]

theorem retuneConsumerRequest_denied {source : Source} (sourced : source? f = some source) (opened : (s.stream st).state ≠ .closed)
    (slotless : (s.stream st).slotOf p = none) : retuneConsumerRequest p [byte st.val, f, threshold] s = refuse .denied s := by
  simp [retuneConsumerRequest, sourced, opened, slotless]

theorem retuneConsumerRequest_ok {source : Source} {c : SlotId} (sourced : source? f = some source)
    (opened : (s.stream st).state ≠ .closed) (slot : (s.stream st).slotOf p = some c) :
    retuneConsumerRequest p [byte st.val, f, threshold] s = okWith [] (retune st c source threshold.toNat s) := by
  simp [retuneConsumerRequest, sourced, opened, slot]

end retuneConsumer

theorem retune_eq (st : StreamId) (c : SlotId) (source : Source) (threshold : Nat) (t : State) : retune st c source threshold t =
    { t.modStream st fun x => x.modSlot c fun k => { k with source := source, threshold := threshold } with
      addressed := if ((t.stream st).slot c).source = source then t.addressed
        else t.addressed.filter fun a => decide (a ≠ (st, c)) } := by
  have same : t.addressed.filter (fun a => a != (st, c)) = t.addressed.filter fun a => decide (a ≠ (st, c)) :=
    List.filter_congr fun a _ => Bool.eq_iff_iff.mpr (by simp)
  unfold retune
  dsimp only
  by_cases h : ((t.stream st).slot c).source = source
  · rw [if_neg (not_not.mpr h), if_pos h]
    rfl
  · rw [if_pos h, if_neg h, ← same]
    rfl

/-- Settles O46, by the four checks in the order of R100. -/
theorem retuneConsumerChangesSource : Obligations.RetuneConsumerChangesSource := by
  intro s p tag n f threshold h refusal
  refine ⟨fun hn => exec_refuses (name := .retuneConsumer) h (retuneConsumerRequest_range hn), ?_⟩
  rintro st rfl
  refine ⟨fun closed => exec_refuses (name := .retuneConsumer) h (retuneConsumerRequest_noSuch closed),
    fun opened outside => exec_refuses (name := .retuneConsumer) h (retuneConsumerRequest_sourceless opened (source?_none outside)), ?_⟩
  rintro source rfl opened
  have sourced := source?_code source
  refine ⟨fun slotless => ?_, fun c occupied own lowest => ?_⟩
  · exact exec_refuses (name := .retuneConsumer) h
      (retuneConsumerRequest_denied sourced opened (slotOf_eq_none.mpr slotless))
  · have body := retuneConsumerRequest_ok (s := s.taken p tag 0x51 [byte st.val, source.code, threshold]) (threshold := threshold)
      sourced opened (slotOf_eq_some occupied own lowest)
    rw [retune_eq] at body
    exact exec_responds (name := .retuneConsumer) h body

end Sys2Proof.Machine
end

section
/-!
PROOFS. A boundary taken at a slot (spec/06_presentation.md): the candidate, the flip and the repeat.
-/

namespace Sys2Proof.Machine

/-! ### Changes of one record, one after the other -/

theorem modStream_modStream (s : State) (st : StreamId) (f g : Stream → Stream) :
    (s.modStream st f).modStream st g = s.modStream st fun x => g (f x) := by
  simp [State.modStream, State.stream, get_set_same]

theorem modSlot_modSlot (x : Stream) (c : SlotId) (f g : Slot → Slot) :
    (x.modSlot c f).modSlot c g = x.modSlot c fun k => g (f k) := by
  simp [Stream.modSlot, Stream.slot, get_set_same]

theorem modSlot_congr {x : Stream} {c : SlotId} {f g : Slot → Slot} (h : f (x.slot c) = g (x.slot c)) :
    x.modSlot c f = x.modSlot c g := by
  simp only [Stream.modSlot, h]

/-! ### The candidate (R104, R105) -/

section candidate
variable {c : SlotId} {l₁ l₂ : List Entry} {e : Entry}

theorem candidate_latest (signalled : e.signalled = true) (unpassed : e.passed.has c = false)
    (newest : ∀ d ∈ l₂, d.signalled = true → d.passed.has c = true) : candidate .latest c (l₁ ++ e :: l₂) = some e := by
  have reversed : (l₁ ++ e :: l₂).reverse = l₂.reverse ++ e :: l₁.reverse := by simp
  refine List.find?_eq_some_iff_append.mpr ⟨by simp [signalled, unpassed], l₂.reverse, l₁.reverse, reversed, fun d hd => ?_⟩
  have := newest d (List.mem_reverse.mp hd)
  cases hs : d.signalled <;> simp_all

theorem candidate_every (signalled : e.signalled = true) (unpassed : e.passed.has c = false)
    (oldest : ∀ d ∈ l₁, d.passed.has c = true) : candidate .every c (l₁ ++ e :: l₂) = some e := by
  have found : (l₁ ++ e :: l₂).find? (fun d => !d.passed.has c) = some e :=
    List.find?_eq_some_iff_append.mpr ⟨by simp [unpassed], l₁, l₂, rfl, fun d hd => by simp [oldest d hd]⟩
  simp [candidate, found, signalled]

theorem candidate_latest_none {l : List Entry} (h : ∀ d ∈ l, d.signalled = true → d.passed.has c = true) :
    candidate .latest c l = none := by
  refine List.find?_eq_none.mpr fun d hd => ?_
  have := h d (List.mem_reverse.mp hd)
  cases hs : d.signalled <;> simp_all

theorem candidate_every_none {l : List Entry} (h : ∀ l₁ d l₂, l = l₁ ++ d :: l₂ → (∀ a ∈ l₁, a.passed.has c = true) →
    d.passed.has c = false → d.signalled = false) : candidate .every c l = none := by
  unfold candidate
  dsimp only
  split
  next d found =>
    obtain ⟨unpassed, l₁, l₂, list, before⟩ := List.find?_eq_some_iff_append.mp found
    have unsignalled := h l₁ d l₂ list (fun a ha => by simpa using before a ha) (by simpa using unpassed)
    simp [unsignalled]
  next => rfl

end candidate

/-! ### The flip (R106 to R108) -/

section marks
variable {c : SlotId} {l₁ l₂ : List Entry} {e : Entry}

theorem passUpTo_eq (fresh : ∀ d ∈ l₁, d.buffer ≠ e.buffer) : passUpTo c e.buffer (l₁ ++ e :: l₂) =
    (l₁.map fun d => { d with passed := d.passed.put c true }) ++ { e with passed := e.passed.put c true, shown := true } :: l₂ := by
  induction l₁ with
  | nil => simp [passUpTo]
  | cons d l₁ ih =>
    have rest := ih fun a ha => fresh a (List.mem_cons_of_mem _ ha)
    simp only [List.cons_append, passUpTo, if_neg (fresh d List.mem_cons_self), rest, List.map_cons]

theorem skipped_eq (fresh : ∀ d ∈ l₁, d.buffer ≠ e.buffer) :
    skipped c e.buffer (l₁ ++ e :: l₂) = l₁.countP fun d => !d.passed.has c := by
  induction l₁ with
  | nil => simp [skipped]
  | cons d l₁ ih =>
    have rest := ih fun a ha => fresh a (List.mem_cons_of_mem _ ha)
    simp only [List.cons_append, skipped, if_neg (fresh d List.mem_cons_self), rest, List.countP_cons]
    cases d.passed.has c <;> simp [Nat.add_comm]

end marks

/-! ### The row (R103) -/

section boundary
variable {s : State} {st : StreamId} {c : SlotId}

theorem exec_boundary_of_addressed (h : (st, c) ∈ s.addressed) :
    exec (.boundary st c) s = .next (takeBoundary st c { s with addressed := s.addressed.erase (st, c) }) :=
  congrArg Host.Outcome.next (if_pos (by simpa using h))

theorem takeBoundary_ignored (h : ((s.stream st).slot c).occupied = false ∨ (s.stream st).state = .draining ∨
    (s.stream st).state = .closed) : takeBoundary st c s = s := by
  unfold takeBoundary
  dsimp only
  split
  next occupied =>
    rcases h with h | h | h
    · simp [h] at occupied
    · rw [h]
    · rw [h]
  next => rfl

section taken
variable (occupied : ((s.stream st).slot c).occupied = true) (running : (s.stream st).state = .vacant ∨ (s.stream st).state = .live)
include occupied running

theorem takeBoundary_flip {e : Entry} (found : candidate (s.stream st).policy c (s.stream st).list = some e) :
    takeBoundary st c s = flip st c e s := by
  unfold takeBoundary
  rcases running with h | h <;> simp only [occupied, h, found, if_true]

theorem takeBoundary_repeat {b : BufferId} (none : candidate (s.stream st).policy c (s.stream st).list = none)
    (current : ((s.stream st).slot c).current = some b) : takeBoundary st c s = repeatFrame st c b s := by
  unfold takeBoundary
  rcases running with h | h <;> simp only [occupied, h, none, current, if_true]

theorem takeBoundary_blank (none : candidate (s.stream st).policy c (s.stream st).list = none)
    (current : ((s.stream st).slot c).current = .none) : takeBoundary st c s = s := by
  unfold takeBoundary
  rcases running with h | h <;> simp only [occupied, h, none, current, if_true]

end taken

/-! ### The repeat (R109 to R111) -/

/-- The stall test on a slot whose repeat count has just become `n`. -/
theorem stalls_iff {k : Slot} {n : Nat} : stalls { k with repeats := n } = true ↔ k.threshold ≠ 0 ∧ k.threshold ≤ n ∧ k.stalled = false := by
  simp [stalls, and_assoc]

theorem repeatFrame_quiet {b : BufferId} (quiet : ¬((s.stream st).state = .live ∧
      stalls { (s.stream st).slot c with repeats := min 255 (((s.stream st).slot c).repeats + 1) } = true)) :
    repeatFrame st c b s =
      s.modStream st fun y => y.modSlot c fun j => { j with repeats := min 255 (((s.stream st).slot c).repeats + 1) } := by
  have counted : (s.modStream st fun x => x.modSlot c fun k => { k with repeats := min Config.saturation (k.repeats + 1) }) =
      s.modStream st fun y => y.modSlot c fun j => { j with repeats := min 255 (((s.stream st).slot c).repeats + 1) } :=
    modStream_congr (modSlot_congr rfl)
  unfold repeatFrame
  rw [counted]
  refine if_neg ?_
  rw [modStream_stream_same, modSlot_slot_same]
  exact quiet

theorem repeatFrame_stall {b : BufferId} (live : (s.stream st).state = .live)
    (stalling : stalls { (s.stream st).slot c with repeats := min 255 (((s.stream st).slot c).repeats + 1) } = true) :
    repeatFrame st c b s = queueNoticeTo ((s.stream st).slot c).port
      (.stall st c b (s.buffer b).generation (((s.stream st).slot c).currentSequence.getD 0)
        (min 255 (((s.stream st).slot c).repeats + 1)) ((s.stream st).slot c).threshold)
      (s.modStream st fun y => y.modSlot c fun j =>
        { j with repeats := min 255 (((s.stream st).slot c).repeats + 1), stalled := true }) := by
  have counted : (s.modStream st fun x => x.modSlot c fun k => { k with repeats := min Config.saturation (k.repeats + 1) }) =
      s.modStream st fun y => y.modSlot c fun j => { j with repeats := min 255 (((s.stream st).slot c).repeats + 1) } :=
    modStream_congr (modSlot_congr rfl)
  unfold repeatFrame
  rw [counted]
  dsimp only
  rw [modStream_stream_same, modSlot_slot_same, modStream_modStream, if_pos ⟨live, stalling⟩]
  simp only [modSlot_modSlot]
  rfl

end boundary

/-- Settles O48, by whether the boundary is addressed, the slot takes it, and a candidate stands in the list. -/
theorem boundaryFlipsOrRepeats : Obligations.BoundaryFlipsOrRepeats := by
  intro s st c
  refine ⟨fun absent => congrArg Host.Outcome.next (if_neg (by simpa using absent)), ?_⟩
  intro addressed taken x k
  rw [exec_boundary_of_addressed addressed]
  refine ⟨fun h => congrArg _ (takeBoundary_ignored (s := taken) h), fun occupied hstate => ⟨?_, fun quiet => ?_⟩⟩
  · intro l₁ e l₂ list once signalled unpassed policy skips marked held dropped moved r
    rw [list] at once
    have found : candidate x.policy c x.list = some e := by
      rw [list]
      rcases policy with ⟨latest, newest⟩ | ⟨every, oldest⟩
      · rw [latest]; exact candidate_latest signalled unpassed newest
      · rw [every]; exact candidate_every signalled unpassed oldest
    have fresh : ∀ d ∈ l₁, d.buffer ≠ e.buffer := fun d hd => buffer_ne_of_once once (.inl hd)
    have marks : (taken.modStream st fun y => { y with list := passUpTo c e.buffer y.list }) = marked :=
      modStream_congr (by
        rw [show (taken.stream st).list = l₁ ++ e :: l₂ from list, passUpTo_eq fresh])
    have skips_eq : skipped c e.buffer (taken.stream st).list = skips := by
      rw [show (taken.stream st).list = l₁ ++ e :: l₂ from list, skipped_eq fresh]
    refine congrArg Host.Outcome.next ((takeBoundary_flip (s := taken) occupied hstate found).trans ?_)
    unfold flip
    dsimp only
    rw [marks, skips_eq]
    rfl
  · have none : candidate x.policy c x.list = none := by
      rcases quiet with ⟨latest, h⟩ | ⟨every, h⟩
      · rw [latest]; exact candidate_latest_none h
      · rw [every]; exact candidate_every_none h
    refine ⟨fun blank => congrArg _ (takeBoundary_blank (s := taken) occupied hstate none blank), ?_⟩
    intro b current n
    refine ⟨fun calm => ?_, ?_⟩
    · refine congrArg Host.Outcome.next ((takeBoundary_repeat (s := taken) occupied hstate none current).trans ?_)
      exact repeatFrame_quiet (s := taken) fun h => calm ⟨h.1, stalls_iff.mp h.2⟩
    · intro live threshold reached calm t
      refine congrArg Host.Outcome.next ((takeBoundary_repeat (s := taken) occupied hstate none current).trans ?_)
      exact repeatFrame_stall (s := taken) live (stalls_iff.mpr ⟨threshold, reached, calm⟩)

end Sys2Proof.Machine
end

section
/-!
PROOFS. Boundary sources (spec/05_boundary_sources.md): START_TIMER, STOP_TIMER, CLAIM_TIMER, and the boundaries that edges and expiries
address.
-/

namespace Sys2Proof.Machine

/-! ### The requests of a timer (R88, R90, R91) -/

section timers
variable {s : State} {p : Port} {hi lo : Byte} {i : TimerId}

theorem startTimerRequest_range {n : Byte} (h : 3 < n.toNat ∨ (hi ++ lo : Half) = 0) :
    startTimerRequest p [n, hi, lo] s = refuse .range s := by
  have zero (h : (hi ++ lo : Half) = 0) : be16 hi lo = 0#16 := h
  unfold startTimerRequest
  dsimp only
  split
  · rfl
  next i found =>
    have low : ¬ 3 < n.toNat := fun high => by simp [index?_none (n := 4) high] at found
    exact if_pos (zero (h.resolve_left low))

theorem startTimerRequest_denied (period : (hi ++ lo : Half) ≠ 0)
    (foreign : (s.timer i).owner ≠ none ∧ (s.timer i).owner ≠ some p) :
    startTimerRequest p [byte i.val, hi, lo] s = refuse .denied s := by
  have period : be16 hi lo ≠ 0#16 := period
  rw [← Option.isSome_iff_ne_none] at foreign
  simp [startTimerRequest, period, foreign]

theorem startTimerRequest_ok (period : (hi ++ lo : Half) ≠ 0)
    (free : ¬((s.timer i).owner ≠ none ∧ (s.timer i).owner ≠ some p)) :
    startTimerRequest p [byte i.val, hi, lo] s = okWith [] (s.modTimer i fun _ =>
      { state := .running, owner := some p, period := hi ++ lo, remaining := some (hi ++ lo : Half).toNat }) := by
  have period : be16 hi lo ≠ 0#16 := period
  rw [← Option.isSome_iff_ne_none] at free
  simp only [startTimerRequest, index?_four, free, if_false]
  exact if_neg period

theorem stopTimerRequest_range {n : Byte} (h : 3 < n.toNat) : stopTimerRequest p [n] s = refuse .range s := by
  simp [stopTimerRequest, index?_none (n := 4) h]

theorem stopTimerRequest_denied (foreign : (s.timer i).owner ≠ some p) : stopTimerRequest p [byte i.val] s = refuse .denied s := by
  simp [stopTimerRequest, foreign]

theorem stopTimerRequest_ok (own : (s.timer i).owner = some p) : stopTimerRequest p [byte i.val] s =
    okWith [] (s.modTimer i fun r => { r with state := .stopped, remaining := none }) := by
  simp [stopTimerRequest, own]

theorem claimTimerRequest_range {n : Byte} (h : 3 < n.toNat) : claimTimerRequest p [n] s = refuse .range s := by
  simp [claimTimerRequest, index?_none (n := 4) h]

theorem claimTimerRequest_of_own (own : (s.timer i).owner = some p) : claimTimerRequest p [byte i.val] s = okWith [] s := by
  simp [claimTimerRequest, own]

theorem claimTimerRequest_denied (owned : (s.timer i).owner ≠ none) (foreign : (s.timer i).owner ≠ some p) :
    claimTimerRequest p [byte i.val] s = refuse .denied s := by
  obtain ⟨o, ho⟩ := Option.ne_none_iff_exists'.mp owned
  have other : o ≠ p := by simpa [ho] using foreign
  simp [claimTimerRequest, ho, other]

theorem claimTimerRequest_of_ownerless (ownerless : (s.timer i).owner = none) : claimTimerRequest p [byte i.val] s =
    okWith [] (s.modTimer i fun r => { r with owner := some p }) := by
  simp [claimTimerRequest, ownerless]

end timers

/-- Settles O49: for each of the three rows, by its checks in their order. -/
theorem timerStartsAndStops : Obligations.TimerStartsAndStops := by
  intro s p tag
  refine ⟨fun n hi lo h outside => exec_refuses (name := .startTimer) h (startTimerRequest_range outside), fun i hi lo h period => ?_,
    fun n h hn => exec_refuses (name := .stopTimer) h (stopTimerRequest_range hn), fun i h => ?_,
    fun n hn h => exec_refuses (name := .claimTimer) h (claimTimerRequest_range hn), fun i h => ?_⟩
  · split
    next foreign => exact exec_refuses (name := .startTimer) h (startTimerRequest_denied period foreign)
    next free => exact exec_responds (name := .startTimer) h (startTimerRequest_ok (s := s.taken p tag 0x60 _) period free)
  · split
    next foreign => exact exec_refuses (name := .stopTimer) h (stopTimerRequest_denied foreign)
    next own => exact exec_responds (name := .stopTimer) h (stopTimerRequest_ok (s := s.taken p tag 0x61 _) (not_not.mp own))
  · split_ifs with own owned
    · exact exec_responds (name := .claimTimer) h (claimTimerRequest_of_own (s := s.taken p tag 0x62 _) own)
    · exact exec_refuses (name := .claimTimer) h (claimTimerRequest_denied owned own)
    · exact exec_responds (name := .claimTimer) h
        (claimTimerRequest_of_ownerless (s := s.taken p tag 0x62 _) (not_not.mp owned))

/-! ### Boundaries addressed (R85, R89) -/

theorem everySlot_nodup : everySlot.Nodup := by
  decide +kernel

theorem mem_everySlot (a : StreamId × SlotId) : a ∈ everySlot := by
  simp [everySlot]

/-- The slots that a source addresses, each once. -/
theorem address_eq (fits : Slot → Bool) (s : State) : ∃ slots : List (StreamId × SlotId), slots.Nodup ∧
    (∀ st c, (st, c) ∈ slots ↔ ((s.stream st).slot c).occupied = true ∧ fits ((s.stream st).slot c) = true) ∧
    address fits s = { s with addressed := s.addressed ++ slots } :=
  ⟨_, everySlot_nodup.filter _, fun st c => by simp [mem_everySlot], rfl⟩

/-- Settles O50: each row addresses by `address`, or by its guard does nothing. -/
theorem edgesAndExpiriesAddressSlots : Obligations.EdgesAndExpiriesAddressSlots := by
  intro s p i
  refine ⟨fun out low => ?_, fun h => ?_, fun out => congrArg _ (if_pos out), fun h => congrArg _ (if_neg (by simp [h])),
    fun running elapsed => ?_, fun h => ?_⟩
  · obtain ⟨slots, once, mem, addressed⟩ := address_eq (fun k => k.source == .line && k.port == some p)
      (s.modPort p fun r => { r with bnd := .high })
    exact ⟨slots, once, fun st c => by simpa using mem st c, congrArg Host.Outcome.next ((if_pos ⟨out, low⟩).trans addressed)⟩
  · refine congrArg Host.Outcome.next (if_neg ?_)
    rcases h with h | h <;> simp [h]
  · obtain ⟨slots, once, mem, addressed⟩ := address_eq (fun k => k.source == .timer i) s
    exact ⟨slots, once, fun st c => by simpa using mem st c, congrArg Host.Outcome.next ((if_pos ⟨running, elapsed⟩).trans (by
      rw [addressed]; rfl))⟩
  · refine congrArg Host.Outcome.next (if_neg ?_)
    rcases h with h | h <;> simp [h]

end Sys2Proof.Machine
end

section
/-!
PROOFS. The five queries (spec/09_requests_and_responses.md 9.10): what each request's body answers, by its checks in order, and the
statement about their rows.
-/

namespace Sys2Proof.Machine

/-! ### QUERY_DEVICE (R170) -/

theorem deviceData_eq (p : Port) (s : State) : deviceData p s =
    [byte p.val] ++ (allPorts.flatMap fun q => [(s.port q).state.code, (s.port q).session]) ++
      allTimers.flatMap fun i =>
        [(if (s.timer i).state = .running then 0x80 else 0) ||| ((s.timer i).owner.map fun q => byte q.val).getD 0x0F |||
            (Config.unnamedBits s.choices i.val &&& 0x70),
          (s.timer i).period.extractLsb' 8 8, (s.timer i).period.extractLsb' 0 8] := by
  have running (i : TimerId) : bit 7 ((s.timer i).state == .running) = if (s.timer i).state = .running then 0x80 else 0 := by
    cases (s.timer i).state <;> rfl
  have owner (i : TimerId) : absentNibble (s.timer i).owner = ((s.timer i).owner.map fun q => byte q.val).getD 0x0F := by
    cases (s.timer i).owner <;> rfl
  simp only [deviceData, flagsByte, running, owner]
  rfl

/-- The taking of a frame changes no field that QUERY_DEVICE reports. -/
theorem deviceData_taken (s : State) (p : Port) (tag code : Byte) (payload : List Byte) :
    deviceData p (s.taken p tag code payload) = deviceData p s := by
  simp only [deviceData, taken_port_state, taken_port_session, taken_timer]
  rfl

theorem queryDeviceRequest_ok (p : Port) (s : State) :
    queryDeviceRequest p [] s = okWith (deviceData p s) { s with choices := s.choices + 1 } := rfl

/-! ### QUERY_PORT (R171) -/

theorem queryPortRequest_range {n : Byte} (h : 3 < n.toNat) (s : State) : queryPortRequest [n] s = refuse .range s := by
  simp [queryPortRequest, index?_none (n := 4) h]

theorem queryPortRequest_ok (q : Port) (s : State) : queryPortRequest [byte q.val] s = okWith (portData (s.port q)) s := by
  simp [queryPortRequest]

theorem levelCode_eq (l : Level) : levelCode l = if l = .high then 1 else 0 := by
  cases l <;> rfl

/-! ### QUERY_POOL (R172) -/

theorem queryPool_range {n part : Byte} (h : 3 < n.toNat ∨ 4 < part.toNat) (s : State) : queryPool n part s = refuse .range s := by
  unfold queryPool
  split
  · rfl
  next k found =>
    have low : ¬ 3 < n.toNat := fun high => by simp [index?_none (n := 4) high] at found
    exact if_pos (h.resolve_left low)

section queryPool
variable {s : State} {k : PoolId} {part : Byte} (fits : part.toNat ≤ 4)
include fits

theorem queryPool_noSuch (unused : (s.pool k).state = .unused) : queryPool (byte k.val) part s = refuse .noSuch s := by
  simp [queryPool, Nat.not_lt.mpr fits, unused]

theorem queryPool_ok (active : (s.pool k).state ≠ .unused) :
    queryPool (byte k.val) part s = okWith (poolData (s.pool k) part.toNat) s := by
  simp [queryPool, Nat.not_lt.mpr fits, active]

end queryPool

/-! ### QUERY_STREAM (R173) -/

theorem queryStream_range {n : Byte} (h : 15 < n.toNat) (page part : Byte) (s : State) : queryStream n page part s = refuse .range s := by
  simp [queryStream, index?_none (n := 16) h]

section queryStream
variable {s : State} {st : StreamId} {page part : Byte}

theorem queryStream_noSuch (closed : (s.stream st).state = .closed) : queryStream (byte st.val) page part s = refuse .noSuch s := by
  simp [queryStream, closed]

/-- The page and the part are out of range. -/
def PageOutside (page part : Byte) : Prop := 4 < page.toNat ∨ 1 < part.toNat ∨ (part = 1 ∧ page ≠ 1)

theorem pageOutside_iff : PageOutside page part ↔ 4 < page.toNat ∨ 1 < part.toNat ∨ (part.toNat = 1 ∧ page.toNat ≠ 1) := by
  have one (v : Byte) : v.toNat = 1 ↔ v = 1 := by
    rw [← BitVec.toNat_inj]
    rfl
  simp only [PageOutside, ne_eq, one]

theorem queryStream_outside (opened : (s.stream st).state ≠ .closed) (outside : PageOutside page part) :
    queryStream (byte st.val) page part s = refuse .range s := by
  simp only [queryStream, index?_sixteen, opened, if_false, if_pos (pageOutside_iff.mp outside)]

theorem queryStream_ok (opened : (s.stream st).state ≠ .closed) (inside : ¬ PageOutside page part) :
    queryStream (byte st.val) page part s =
      okWith (streamData st page.toNat part.toNat s) { s with choices := s.choices + 1 } := by
  rw [pageOutside_iff] at inside
  simp only [queryStream, index?_sixteen, opened, if_false, if_neg inside]
  rfl

end queryStream

/-! ### QUERY_BUFFER (R174) -/

theorem queryBufferRequest_range {n : Byte} (h : 63 < n.toNat) (s : State) : queryBufferRequest [n] s = refuse .range s := by
  simp [queryBufferRequest, index?_none (n := 64) h]

section queryBuffer
variable {s : State} {b : BufferId}

theorem queryBufferRequest_ok : queryBufferRequest [byte b.val] s = okWith (bufferData b s) s := by
  simp [queryBufferRequest]

theorem entryOfBuffer_none (other : (s.buffer b).state ≠ .published) : s.entryOfBuffer b = none := by
  unfold State.entryOfBuffer
  split
  next published _ => exact absurd published other
  next => rfl

theorem entryOfBuffer_some {st : StreamId} {l₁ l₂ : List Entry} {e : Entry} (published : (s.buffer b).state = .published)
    (bound : (s.buffer b).stream = some st) (list : (s.stream st).list = l₁ ++ e :: l₂) (same : e.buffer = b)
    (once : ((s.stream st).list.map Entry.buffer).Nodup) : s.entryOfBuffer b = some e := by
  subst same
  rw [list] at once
  simp only [State.entryOfBuffer, published, bound, list]
  exact entryOf_eq_some once

end queryBuffer

/-- Settles O51: for each of the five rows, by its checks in their order. -/
theorem queriesReportAndChangeNothing : Obligations.QueriesReportAndChangeNothing := by
  unfold Obligations.QueriesReportAndChangeNothing
  intro drawn s p tag
  refine ⟨fun h => ?_, fun n h => ⟨fun hn => exec_refuses (name := .queryPort) h (queryPortRequest_range hn _), ?_⟩,
    fun n part h => ⟨fun outside => exec_refuses (name := .queryPool) h (queryPool_range outside _), ?_⟩,
    fun n hn h => exec_refuses (name := .queryPool) h (queryPool_range (.inl hn) _), fun k h => ?_,
    fun n page part h => ⟨fun hn => exec_refuses (name := .queryStream) h (queryStream_range hn ..), ?_⟩,
    fun n page h => ⟨fun hn => exec_refuses (name := .queryStream) h (queryStream_range hn ..), ?_⟩,
    fun n h => ⟨fun hn => exec_refuses (name := .queryBuffer) h (queryBufferRequest_range hn _), ?_⟩⟩
  · have body := queryDeviceRequest_ok p (s.taken p tag 0x70 [])
    rw [deviceData_taken, deviceData_eq] at body
    exact h.elim (fun h => exec_responds (name := .queryDevice) h body) fun h => exec_responds_detached (name := .queryDevice) h body
  · rintro q rfl r
    have body := queryPortRequest_ok q (s.taken p tag 0x71 [byte q.val])
    unfold portData at body
    rw [levelCode_eq] at body
    exact exec_responds (name := .queryPort) h body
  · rintro k rfl fits
    split
    next unused => exact exec_refuses (name := .queryPool) h (queryPool_noSuch fits unused)
    next active => exact exec_responds (name := .queryPool) h (queryPool_ok (s := s.taken p tag 0x72 _) fits active)
  · split
    next unused => exact exec_refuses (name := .queryPool) h (queryPool_noSuch (part := 0) (by decide) unused)
    next active => exact exec_responds (name := .queryPool) h (queryPool_ok (s := s.taken p tag 0x72 _) (part := 0) (by decide) active)
  · rintro st rfl
    split_ifs with closed outside
    · exact exec_refuses (name := .queryStream) h (queryStream_noSuch closed)
    · exact exec_refuses (name := .queryStream) h (queryStream_outside closed outside)
    · exact exec_responds (name := .queryStream) h (queryStream_ok (s := s.taken p tag 0x73 _) closed outside)
  · rintro st rfl
    split_ifs with closed outside
    · exact exec_refuses (name := .queryStream) h (queryStream_noSuch closed)
    · exact exec_refuses (name := .queryStream) h (queryStream_outside (part := 0) closed (.inl outside))
    · have inside : ¬ PageOutside page 0 := by
        rintro (high | high | ⟨one, -⟩)
        · exact outside high
        · simp at high
        · simp at one
      exact exec_responds (name := .queryStream) h (queryStream_ok (s := s.taken p tag 0x73 _) closed inside)
  · rintro b rfl fields
    have body := queryBufferRequest_ok (s := s.taken p tag 0x74 [byte b.val]) (b := b)
    unfold bufferData at body
    refine ⟨fun other => ?_, fun st l₁ e l₂ published bound list same once => ?_⟩
    · rw [entryOfBuffer_none (s := s.taken p tag 0x74 _) other] at body
      exact exec_responds (name := .queryBuffer) h body
    · rw [entryOfBuffer_some (s := s.taken p tag 0x74 _) published bound list same once] at body
      dsimp only at body
      rw [← List.append_assoc] at body
      exact exec_responds (name := .queryBuffer) h body

end Sys2Proof.Machine
end

section
/-!
PROOFS. The layout of the answers of QUERY_POOL and QUERY_STREAM (Table 10-7b).
-/

namespace Sys2Proof.Machine

/-! ### Bytes filled with 0xFF (R172) -/

theorem fillFF_of_le {n : Nat} {bs : List Byte} (h : bs.length ≤ n) : fillFF n bs = bs ++ List.replicate (n - bs.length) 0xFF := by
  rw [fillFF, List.take_append, List.take_of_length_le h, List.take_replicate]
  congr 2
  omega

theorem fillFF_length (n : Nat) (bs : List Byte) : (fillFF n bs).length = n := by
  simp [fillFF]

theorem fillFF_getElem? {n i : Nat} (h : i < n) (bs : List Byte) : (fillFF n bs)[i]? = some (bs[i]?.getD 0xFF) := by
  rw [fillFF, List.getElem?_take_of_lt h, List.getElem?_append]
  split
  next inside => simp [List.getElem?_eq_getElem inside]
  next outside =>
    rw [List.getElem?_eq_none (Nat.not_lt.mp outside), List.getElem?_replicate_of_lt (by omega)]
    rfl

theorem poolData_part {part : Nat} (h : 1 ≤ part) (q : Pool) :
    poolData q part = byte q.free.length :: fillFF 16 ((q.free.drop (16 * (part - 1))).map fun b => byte b.val) :=
  if_neg (by omega)

/-! ### Bits and half bytes -/

theorem nibbles_byte {a b : Nat} (ha : a < 16) (hb : b < 16) : nibbles (byte a) (byte b) = byte (a * 16 + b) := by
  have all : ∀ a b : Fin 16, nibbles (byte a.val) (byte b.val) = byte (a.val * 16 + b.val) := by decide +kernel
  exact all ⟨a, ha⟩ ⟨b, hb⟩

/-- A port's number, or 15 for absent. -/
def nibbleOf (o : Option Port) : Nat := (o.map Fin.val).getD 15

theorem nibbleOf_lt (o : Option Port) : nibbleOf o < 16 := by
  revert o
  decide

theorem absentNibble_eq (o : Option Port) : absentNibble o = byte (nibbleOf o) := by
  cases o <;> rfl

theorem setWidth_eq_byte (m : BitVec 4) : m.setWidth 8 = byte m.toNat := by
  revert m
  decide

/-- The named bits of page 0's flags. -/
theorem page0_flags (state : StreamState) (policy : Policy) (parked : Bool) :
    state.code ||| bit 2 (policy == .every) ||| bit 7 parked =
      byte (state.code.toNat + (if policy = .every then 4 else 0) + if parked = true then 128 else 0) := by
  cases state <;> cases policy <;> cases parked <;> rfl

/-- The named bits of an entry's marks. -/
theorem entry_flags : ∀ signalled shown c0 c1 c2 : Bool,
    bit 0 signalled ||| bit 1 shown ||| bit 4 c0 ||| bit 5 c1 ||| bit 6 c2 =
      byte ((if signalled = true then 1 else 0) + (if shown = true then 2 else 0) + (if c0 = true then 16 else 0) +
        (if c1 = true then 32 else 0) + if c2 = true then 64 else 0) := by
  decide

/-- The named bits of a slot's flags. -/
theorem slot_flags : ∀ occupied stalled : Bool,
    bit 7 occupied ||| bit 0 stalled = byte ((if occupied = true then 128 else 0) + if stalled = true then 1 else 0) := by
  decide

/-! ### The pages of a stream (R173) -/

theorem streamPage0_eq {x : Stream} (hx : x.Sound) (outstanding choice : Nat) : streamPage0 x outstanding choice =
    [byte (x.state.code.toNat + (if x.policy = .every then 4 else 0) + if x.parked.isSome then 128 else 0) |||
        (Config.unnamedBits choice 0 &&& 0x78),
      byte (nibbleOf x.owner * 16 + nibbleOf x.producer), byte (nibbleOf x.signaller * 16 + x.pool.val),
      byte (x.depth * 16 + x.list.length), byte x.quota, byte x.reserve, byte x.signalLimit,
      byte (x.consumerMask.toNat * 16 + x.producerMask.toNat)] ++ bytes16 x.nextSequence ++ [byte outstanding] ++
      (match x.parked with
        | some k => [k.tag, byte (k.remaining / 10)]
        | none => [0, 0]) ++
      bytes16 x.published ++ bytes16 x.flips ++ bytes16 x.dropped ++ bytes16 x.expired := by
  have depth := hx.depth
  have list := hx.list
  unfold streamPage0 flagsByte
  rw [page0_flags, absentNibble_eq, absentNibble_eq, absentNibble_eq, setWidth_eq_byte, setWidth_eq_byte,
    nibbles_byte (nibbleOf_lt _) (nibbleOf_lt _), nibbles_byte (nibbleOf_lt _) (by omega), nibbles_byte (by omega) (by omega),
    nibbles_byte x.consumerMask.isLt x.producerMask.isLt]
  rfl

theorem entryData_eq (choice position : Nat) (o : Option Entry) : entryData choice position o = match o with
    | some e => byte e.buffer.val :: (bytes16 e.sequence ++
        [byte ((if e.signalled then 1 else 0) + (if e.shown then 2 else 0) + (if e.passed.c0 then 16 else 0) +
          (if e.passed.c1 then 32 else 0) + if e.passed.c2 then 64 else 0) |||
          (Config.unnamedBits choice position &&& 0x8C)])
    | none => [0xFF, 0, 0, 0] := by
  cases o with
  | none => rfl
  | some e => simp only [entryData, flagsByte, entry_flags]

theorem streamPage1_eq (x : Stream) (first choice : Nat) : streamPage1 x first choice =
    byte x.list.length :: [0, 1, 2, 3].flatMap fun i => entryData choice i x.list[first + i]? := by
  simp only [streamPage1, List.flatMap_cons, List.flatMap_nil, List.append_nil, List.append_assoc, Nat.add_zero]

theorem streamSlotPage_eq (x : Stream) (c : SlotId) (s : State) : streamSlotPage x c s =
    [byte ((if (x.slot c).occupied then 128 else 0) + if (x.slot c).stalled then 1 else 0) |||
        (Config.unnamedBits s.choices 0 &&& 0x7E), absentByte (x.slot c).port,
      (x.slot c).source.code, absentByte (x.slot c).current,
      ((x.slot c).current.map fun b => (s.buffer b).generation).getD 0] ++ bytes16 ((x.slot c).currentSequence.getD 0) ++
      [byte (x.slot c).repeats, byte (x.slot c).threshold,
        byte (if (x.slot c).occupied then x.list.countP fun e => !e.passed.has c else 0)] := by
  unfold streamSlotPage flagsByte
  dsimp only
  rw [slot_flags]
  cases (x.slot c).current <;> rfl

/-- Settles O52, code by code, part by part and page by page. -/
theorem poolAndStreamAnswersLayOut : Obligations.PoolAndStreamAnswersLayOut := by
  unfold Obligations.PoolAndStreamAnswersLayOut
  intro nibble
  refine ⟨⟨rfl, rfl, rfl, rfl, rfl, rfl, fun _ _ => ⟨rfl, rfl⟩, fun _ => rfl, fun _ => rfl⟩, fun q short => ?_,
    fun q part low _ => ⟨?_, ?_, fun i hi => ?_⟩, fun s st sound => ⟨streamPage0_eq sound _ _, fun part _ => ?_, fun c => ?_⟩⟩
  · have := fillFF_of_le (n := 16) (bs := q.wait.map fun st => byte st.val) (by simpa using short)
    rw [List.length_map] at this
    rw [poolData, if_pos rfl, this, List.append_assoc]
  · rw [poolData_part low, List.length_cons, fillFF_length]
  · rw [poolData_part low]
    rfl
  · rw [poolData_part low, List.getElem?_cons_succ, fillFF_getElem? hi, List.getElem?_map, List.getElem?_drop]
    cases q.free[16 * (part - 1) + i]? <;> rfl
  · refine (streamPage1_eq _ _ _).trans (congrArg _ (List.flatMap_congr fun i _ => ?_))
    exact entryData_eq ..
  · match c with
    | 0 | 1 | 2 => exact streamSlotPage_eq ..

end Sys2Proof.Machine
end

section
/-!
PROOFS. The stream steps and the last two stages of a sweep (spec/08_sessions_and_leases.md).
-/

namespace Sys2Proof.Machine

/-! ### What the parts of a stream step keep of the stream (R147 to R149) -/

theorem State.Thins.owner {st : StreamId} {s t : State} (h : s.Thins st t) : (t.stream st).owner = (s.stream st).owner := by
  rw [h.own.same]
theorem State.Thins.producer {st : StreamId} {s t : State} (h : s.Thins st t) : (t.stream st).producer = (s.stream st).producer := by
  rw [h.own.same]
theorem State.Thins.slots {st : StreamId} {s t : State} (h : s.Thins st t) : (t.stream st).slots = (s.stream st).slots := by
  rw [h.own.same]

section parts
variable (p : Port) (st : StreamId) (s : State)

/-- Up to its last change, of the state, the producer part thins the stream without its producer. -/
theorem producerPart_eq : ∃ b : State, (s.modStream st fun x => { x with producer := none }).Thins st b ∧
    producerPart p st s = b.modStream st fun x => { x with state := if x.state = .live then .vacant else x.state } := by
  unfold producerPart
  exact ⟨_, ((follows_releaseFillings st _).thins st).trans (thins_removeUnsignalled_if _ _ st), rfl⟩

/-- The producer part and the settling after it: the producer gone, owner and slots kept. -/
theorem producerLost_stream :
    ((settle st (producerPart p st s)).stream st).owner = (s.stream st).owner ∧
    ((settle st (producerPart p st s)).stream st).producer = none ∧
    ((settle st (producerPart p st s)).stream st).slots = (s.stream st).slots := by
  obtain ⟨b, thins, eq⟩ := producerPart_eq p st s
  have settled := thins_settle st (producerPart p st s)
  rw [settled.owner, settled.producer, settled.slots, eq, modStream_stream_same]
  dsimp only
  rw [thins.owner, thins.producer, thins.slots, modStream_stream_same]
  exact ⟨rfl, rfl, rfl⟩

theorem producerLost_others {u : StreamId} (hu : u ≠ st) : (s.stream u).Ends ((settle st (producerPart p st s)).stream u) := by
  obtain ⟨b, thins, eq⟩ := producerPart_eq p st s
  refine (thins.others_of_modStream hu).trans ?_
  have settled := (thins_settle st (producerPart p st s)).others u hu
  rwa [eq, modStream_stream_of_ne _ _ _ hu, ← eq] at settled

/-- The consumer part with the signaller part, and the settling after them. -/
def consumerLost (c : SlotId) : State :=
  settle st (if (s.stream st).signaller = some p then removeUnsignalled st (clearSlot st c s) else clearSlot st c s)

theorem consumerLost_thins (c : SlotId) : (clearSlot st c s).Thins st (consumerLost p st s c) :=
  (thins_removeUnsignalled_if _ _ st).trans (thins_settle st _)

/-- The slot cleared, owner and producer kept. -/
theorem consumerLost_stream (c : SlotId) :
    ((consumerLost p st s c).stream st).owner = (s.stream st).owner ∧
    ((consumerLost p st s c).stream st).producer = (s.stream st).producer ∧
    ((consumerLost p st s c).stream st).slots = (s.stream st).slots.set c Slot.cleared := by
  have thins := consumerLost_thins p st s c
  have cleared := clearSlot_stream st c s
  rw [thins.owner, thins.producer, thins.slots, cleared.owner, cleared.producer, cleared.slots]
  exact ⟨rfl, rfl, rfl⟩

theorem consumerLost_others (c : SlotId) {u : StreamId} (hu : u ≠ st) : (s.stream u).Ends ((consumerLost p st s c).stream u) := by
  have cleared := (follows_clearSlot st c s).streams u
  have same : State.stream { s.modStream st fun x => x.withoutSlot c with
      addressed := s.addressed.filter fun a => a != (st, c) } u = s.stream u :=
    modStream_stream_of_ne s st (fun x => x.withoutSlot c) hu
  rw [same] at cleared
  exact cleared.trans ((consumerLost_thins p st s c).others u hu)

end parts

/-! ### The parts that apply (R146) -/

section roleParts
variable {p : Port} {st : StreamId} {s : State}

theorem roleParts_producer (producer : (s.stream st).producer = some p) :
    roleParts p st s = noticeMemberLost p st .producer (settle st (producerPart p st s)) :=
  if_pos producer

section other
variable (other : (s.stream st).producer ≠ some p)
include other

theorem roleParts_consumer {c : SlotId} (slot : (s.stream st).slotOf p = some c) :
    roleParts p st s = noticeMemberLost p st (.consumer c) (consumerLost p st s c) := by
  simp only [roleParts, other, if_false, slot]
  rfl

theorem roleParts_signaller (slotless : (s.stream st).slotOf p = none) (signaller : (s.stream st).signaller = some p) :
    roleParts p st s = settle st (removeUnsignalled st s) := by
  simp only [roleParts, other, if_false, slotless, signaller, if_true]

theorem roleParts_none (slotless : (s.stream st).slotOf p = none) (unsignalling : (s.stream st).signaller ≠ some p) :
    roleParts p st s = s := by
  simp only [roleParts, other, if_false, slotless, unsignalling]

end other

theorem streamStep_of_closed (closed : (s.stream st).state = .closed) : streamStep p st s = s := if_pos closed

theorem streamStep_of_stranger (stranger : (s.stream st).isMember p = false ∧ (s.stream st).signaller ≠ some p ∧
    (s.stream st).owner ≠ some p) : streamStep p st s = s := by
  simp only [streamStep, stranger, ne_eq, not_false_eq_true, and_self, if_true, ite_self]

theorem streamStep_eq (opened : (s.stream st).state ≠ .closed) (involved : ¬((s.stream st).isMember p = false ∧
    (s.stream st).signaller ≠ some p ∧ (s.stream st).owner ≠ some p)) :
    streamStep p st s = drainTest st
      (if (s.stream st).owner = some p then ownerPart p st (roleParts p st s) else roleParts p st s) := by
  simp only [streamStep, if_neg opened, if_neg involved]

theorem exec_streamStep (due : s.sweepAt p (.stream st)) :
    exec (.streamStep p st) s = .next (advanceSweep p (stepAfter st) (streamStep p st s)) :=
  congrArg Host.Outcome.next (if_pos due)

end roleParts

/-- MEMBER_LOST as the statements write it. -/
theorem noticeMemberLost_eq {p : Port} {st : StreamId} {role : LostRole} {t : State} {owner : Option Port} {session : Byte}
    (howner : (t.stream st).owner = owner) (hsession : (t.port p).session = session) : noticeMemberLost p st role t =
      match (generalizing := false) owner with
      | some o =>
        if (t.stream st).producer = some o ∨ ∃ c, ((t.stream st).slot c).occupied = true ∧ ((t.stream st).slot c).port = some o then
          queueNotices (t.stream st).members (.memberLost st p role session) t
        else queueNotice o (.memberLost st p role session) (queueNotices (t.stream st).members (.memberLost st p role session) t)
      | none => queueNotices (t.stream st).members (.memberLost st p role session) t := by
  subst hsession
  unfold noticeMemberLost
  dsimp only
  rw [howner]
  cases owner with
  | none => rfl
  | some o => exact if_congr isMember_eq_true rfl rfl

theorem ownerPart_eq {p : Port} {st : StreamId} {t : State} {session : Byte} (hsession : (t.port p).session = session) :
    ownerPart p st t = queueNotices ((t.modStream st fun y => { y with owner := none }).stream st).members
      (.ownerLost st p session) (t.modStream st fun y => { y with owner := none }) := by
  subst hsession
  rfl

/-- Settles O53, by whether the stream is open and the role the port holds in it. -/
theorem streamStepMakesItsParts : Obligations.StreamStepMakesItsParts := by
  intro s p st x onward owned lost
  refine ⟨fun absent => congrArg Host.Outcome.next (if_neg absent), fun lapsing next => ?_⟩
  have step : exec (.streamStep p st) s = onward (streamStep p st s) := exec_streamStep ⟨lapsing, next⟩
  have session : ((roleParts p st s).port p).session = (s.port p).session := (carry_roleParts st p s p).session
  have parts (opened : x.state ≠ .closed) (involved : ¬(x.isMember p = false ∧ x.signaller ≠ some p ∧ x.owner ≠ some p)) :
      exec (.streamStep p st) s = onward (owned (roleParts p st s)) := by
    rw [step, streamStep_eq opened involved, ownerPart_eq session]
  have told (role : LostRole) (t : State) (h : (t.stream st).owner = x.owner) (hs : s.Carry t) :
      noticeMemberLost p st role t = lost role t := noticeMemberLost_eq h (hs p).session
  refine ⟨fun h => ?_, fun opened producer => ?_, fun c opened other occupied own lowest => ?_, fun opened other slotless => ⟨?_, ?_⟩⟩
  · rw [step]
    rcases h with closed | ⟨other, unsignalling, foreign, slotless⟩
    · rw [streamStep_of_closed closed]
    · rw [streamStep_of_stranger ⟨isMember_eq_false other fun c occupied own => slotless c ⟨occupied, own⟩, unsignalling, foreign⟩]
  · refine ⟨_, _, rfl, rfl, ?_⟩
    rw [parts opened fun stranger => by simp [isMember_eq_true.mpr (.inl producer)] at stranger, roleParts_producer producer,
      told _ _ (producerLost_stream p st s).1 ((carry_producerPart st p s).trans (carry_settle st _))]
    have signaller : ((releaseFillings st (s.modStream st fun y => { y with producer := none })).stream st).signaller =
        x.signaller := by
      rw [((follows_releaseFillings st _).streams st).signaller, modStream_stream_same]
    unfold producerPart
    dsimp only
    simp only [signaller, Option.isNone_iff_eq_none]
  · have slot : x.slotOf p = some c := slotOf_eq_some occupied own lowest
    rw [parts opened fun stranger => by simp [isMember_eq_true.mpr (.inr ⟨c, occupied, own⟩)] at stranger,
      roleParts_consumer other slot, told _ _ (consumerLost_stream p st s c).1 ?_]
    · rfl
    · have carry : s.Carry (clearSlot st c s) := carry_clearSlot st c s
      refine State.Carry.trans ?_ (carry_settle st _)
      split
      · exact carry.trans (carry_removeUnsignalled st _)
      · exact carry
  · intro signaller
    rw [parts opened fun stranger => stranger.2.1 signaller, roleParts_signaller other (slotOf_eq_none.mpr slotless) signaller]
  · intro unsignalling owner
    rw [parts opened fun stranger => stranger.2.2 owner, roleParts_none other (slotOf_eq_none.mpr slotless) unsignalling]

/-! ### What is left of the port (R146 to R150) -/

/-- Whatever parts applied, the other streams have lost at most a parked ACQUIRE. -/
theorem roleParts_others (p : Port) (st : StreamId) (s : State) {u : StreamId} (hu : u ≠ st) :
    (s.stream u).Ends ((roleParts p st s).stream u) := by
  by_cases producer : (s.stream st).producer = some p
  · rw [roleParts_producer producer]
    exact (producerLost_others p st s hu).trans ((thins_noticeMemberLost p st _ _).streams u)
  cases slot : (s.stream st).slotOf p with
  | some c =>
    rw [roleParts_consumer producer slot]
    exact (consumerLost_others p st s c hu).trans ((thins_noticeMemberLost p st _ _).streams u)
  | none =>
    by_cases signaller : (s.stream st).signaller = some p
    · rw [roleParts_signaller producer slot signaller]
      exact ((thins_removeUnsignalled st s).trans (thins_settle st _)).others u hu
    · rw [roleParts_none producer slot signaller]
      exact .refl _

/-- The stream names the port neither as its producer nor in an occupied slot. -/
def Stream.Free (p : Port) (x : Stream) : Prop :=
  x.producer ≠ some p ∧ ∀ c, (x.slot c).occupied = true → (x.slot c).port ≠ some p

theorem Stream.free_cleared (p : Port) : Stream.cleared.Free p :=
  ⟨by simp [Stream.cleared], fun c => by simp [cleared_slot, Slot.cleared]⟩

theorem Stream.Free.congr {p : Port} {x y : Stream} (h : x.Free p) (producer : y.producer = x.producer) (slots : y.slots = x.slots) :
    y.Free p := by
  refine ⟨by rw [producer]; exact h.1, fun c => ?_⟩
  unfold Stream.slot
  rw [slots]
  exact h.2 c

/-- A port holds one role in a stream at most, so the part for that role frees the stream of it. -/
theorem roleParts_free {s : State} (tables : TablesSound s) (p : Port) (st : StreamId) : ((roleParts p st s).stream st).Free p := by
  by_cases producer : (s.stream st).producer = some p
  · rw [roleParts_producer producer]
    have told := (thins_noticeMemberLost p st .producer (settle st (producerPart p st s))).streams st
    obtain ⟨-, gone, slots⟩ := producerLost_stream p st s
    refine Stream.Free.congr (x := { s.stream st with producer := none }) ⟨by simp, fun c occupied own => ?_⟩
      (by rw [told.producer, gone]) (by rw [told.slots, slots])
    exact tables.roles st c p occupied own producer
  cases slot : (s.stream st).slotOf p with
  | some c =>
    rw [roleParts_consumer producer slot]
    have told := (thins_noticeMemberLost p st (.consumer c) (consumerLost p st s c)).streams st
    obtain ⟨-, kept, slots⟩ := consumerLost_stream p st s c
    refine Stream.Free.congr (x := (s.stream st).modSlot c fun _ => Slot.cleared) ⟨producer, fun d occupied own => ?_⟩
      (by rw [told.producer, kept]; rfl) (by rw [told.slots, slots]; rfl)
    have found : ((s.stream st).slot c).occupied = true ∧ ((s.stream st).slot c).port = some p := by
      simpa using List.find?_some slot
    rw [modSlot_slot] at occupied own
    split at own
    next => simp [Slot.cleared] at own
    next hd =>
      rw [if_neg hd] at occupied
      exact hd (tables.slotsOnce st d c p occupied found.1 own found.2)
  | none =>
    have free : (s.stream st).Free p := ⟨producer, fun c occupied own => slotOf_eq_none.mp slot c ⟨occupied, own⟩⟩
    by_cases signaller : (s.stream st).signaller = some p
    · rw [roleParts_signaller producer slot signaller]
      have thins := (thins_removeUnsignalled st s).trans (thins_settle st _)
      exact free.congr thins.producer thins.slots
    · rw [roleParts_none producer slot signaller]
      exact free

theorem roleParts_owner (p : Port) (st : StreamId) (s : State) : ((roleParts p st s).stream st).owner = (s.stream st).owner := by
  by_cases producer : (s.stream st).producer = some p
  · rw [roleParts_producer producer, ((thins_noticeMemberLost p st .producer _).streams st).owner]
    exact (producerLost_stream p st s).1
  cases slot : (s.stream st).slotOf p with
  | some c =>
    rw [roleParts_consumer producer slot, ((thins_noticeMemberLost p st (.consumer c) _).streams st).owner]
    exact (consumerLost_stream p st s c).1
  | none =>
    by_cases signaller : (s.stream st).signaller = some p
    · rw [roleParts_signaller producer slot signaller]
      exact ((thins_removeUnsignalled st s).trans (thins_settle st _)).owner
    · rw [roleParts_none producer slot signaller]

/-- The owner part: the owner gone, everything else of the stream as it was. -/
theorem ownerPart_stream (p : Port) (st : StreamId) (a : State) (u : StreamId) :
    ((ownerPart p st a).stream u) = if u = st then { a.stream st with owner := none } else a.stream u := by
  unfold ownerPart
  dsimp only
  rw [queueNotices_stream, modStream_stream]

/-- The stream after the step, and the others. -/
theorem streamStep_stream {s : State} (streams : StreamsSound s) (tables : TablesSound s) (p : Port) (st : StreamId) :
    ((streamStep p st s).stream st).Free p ∧ ((streamStep p st s).stream st).owner ≠ some p ∧
    ∀ u, u ≠ st → (s.stream u).Ends ((streamStep p st s).stream u) := by
  by_cases closed : (s.stream st).state = .closed
  · rw [streamStep_of_closed closed, (streams st).closed closed]
    exact ⟨Stream.free_cleared p, by simp [Stream.cleared], fun u _ => .refl _⟩
  by_cases stranger : (s.stream st).isMember p = false ∧ (s.stream st).signaller ≠ some p ∧ (s.stream st).owner ≠ some p
  · rw [streamStep_of_stranger stranger]
    have nonmember : ¬ ((s.stream st).isMember p = true) := by simp [stranger.1]
    rw [isMember_eq_true, not_or, not_exists] at nonmember
    exact ⟨⟨nonmember.1, fun c occupied own => nonmember.2 c ⟨occupied, own⟩⟩, stranger.2.2, fun u _ => .refl _⟩
  rw [streamStep_eq closed stranger]
  have free := roleParts_free tables p st
  have owner := roleParts_owner p st s
  have before : ∀ b, b = (if (s.stream st).owner = some p then ownerPart p st (roleParts p st s) else roleParts p st s) →
      (b.stream st).Free p ∧ (b.stream st).owner ≠ some p ∧ ∀ u, u ≠ st → (s.stream u).Ends (b.stream u) := by
    rintro b rfl
    split
    next =>
      refine ⟨?_, ?_, fun u hu => ?_⟩
      · rw [ownerPart_stream, if_pos rfl]; exact free.congr rfl rfl
      · rw [ownerPart_stream, if_pos rfl]; simp
      · rw [ownerPart_stream, if_neg hu]; exact roleParts_others p st s hu
    next foreign => exact ⟨free, by rw [owner]; exact foreign, fun u hu => roleParts_others p st s hu⟩
  generalize (if (s.stream st).owner = some p then ownerPart p st (roleParts p st s) else roleParts p st s) = b at before
  obtain ⟨bfree, bowner, bothers⟩ := before b rfl
  rcases drainTest_cases st b with h | ⟨-, n, h⟩
  · rw [h]
    exact ⟨bfree, bowner, bothers⟩
  · rw [h]
    refine ⟨?_, ?_, fun u hu => ?_⟩
    · rw [modStream_stream_same]; exact Stream.free_cleared p
    · rw [modStream_stream_same]; simp [Stream.cleared]
    · rw [modStream_stream_of_ne _ _ _ hu, queueNoticeTo_stream]; exact bothers u hu

/-- Settles O54: `streamStep_stream`, and the port records carried along. -/
theorem streamStepRemovesPort : Obligations.StreamStepRemovesPort := by
  intro s p st lapsing next streams tables
  obtain ⟨⟨producer, slots⟩, owner, others⟩ := streamStep_stream streams tables p st
  refine ⟨_, exec_streamStep ⟨lapsing, next⟩, producer, owner, slots, fun u hu => ⟨_, (others u hu).same, (others u hu).parked.symm⟩,
    fun q => ?_⟩
  have carried := carry_streamStep st p s q
  rw [← carried.state, ← carried.session]
  unfold advanceSweep
  rw [modPort_port]
  split
  next hq => subst hq; exact ⟨rfl, rfl⟩
  next => exact ⟨rfl, rfl⟩

/-! ### The third and the fourth stage (R151) -/

theorem thirdStage_eq (s : State) (p : Port) :
    { s with pools := mapBank (fun k => { k with owner := disown p k.owner }) s.pools
             timers := mapBank (fun t => { t with owner := disown p t.owner }) s.timers } =
      (s.mapPools fun _ k => { k with owner := if k.owner = some p then none else k.owner }).mapTimers fun _ r =>
        { r with owner := if r.owner = some p then none else r.owner } := by
  refine state_ext (fun b => ?_) (fun k => ?_) (fun u => ?_) (fun i => ?_) (fun q => ?_) ?_ ?_ ?_ ?_ ?_ ?_
  case refine_2 =>
    rw [mapTimers_pool, mapPools_pool]
    exact get_mapBank ..
  case refine_4 =>
    rw [mapTimers_timer, mapPools_timer]
    exact get_mapBank ..
  all_goals simp
  all_goals rfl

/-- Settles O55: each stage at its own step, and no stage at another. -/
theorem sweepEndsAfterFourthStage : Obligations.SweepEndsAfterFourthStage := by
  intro s p tag
  have absent (step : SweepStep) (h : (s.port p).state ≠ .lapsing ∨ (s.port p).sweep.map Sweep.next ≠ some step) :
      ¬ s.sweepAt p step := fun due => h.elim (absurd due.1) (absurd due.2)
  refine ⟨fun lapsing sweep => ?_, fun lapsing sweep => ?_, fun h => congrArg Host.Outcome.next (if_neg (absent _ h)),
    fun h => congrArg Host.Outcome.next (if_neg (absent _ h))⟩
  · have due : s.sweepAt p .thirdStage := ⟨lapsing, by rw [sweep]; rfl⟩
    refine congrArg Host.Outcome.next ((if_pos due).trans ?_)
    rw [thirdStage_eq]
    exact modPort_congr _ _ _ (by simp [sweep])
  · have due : s.sweepAt p .fourthStage := ⟨lapsing, by rw [sweep]; rfl⟩
    have swept : exec (.sweepFourthStage p) s = .next (s.modPort p fun r => r.swept tag) := by
      refine congrArg Host.Outcome.next ((if_pos due).trans (modPort_congr _ _ _ ?_))
      simp [sweep]
    rw [swept]
    refine ⟨?_, ?_⟩
    · rintro rfl
      rfl
    · rintro v rfl
      rfl

end Sys2Proof.Machine
end

section
/-!
PROOFS. The tables stay consistent (O60), first part: the invariant with the buffers that are loose while an operation is under way (their
entries gone from a list, their stream's producer gone, or held by nobody), and the kinds of change that keep it.
-/

namespace Sys2Proof.Machine

/-! ### The invariant while an operation is under way -/

/-- What holds of buffer `b` against the pools and the streams. A buffer among `X` is loose: it may be PUBLISHED and not listed, HELD without a
hold, or FILLING for a stream without a producer. -/
structure State.Fits (s : State) (X : List BufferId) (b : BufferId) : Prop where
  free : ∀ k, b ∈ (s.pool k).free ↔ (s.buffer b).state = .free ∧ (s.buffer b).pool = some k
  pool : (s.buffer b).pool = none ↔ (s.buffer b).state = .vacant
  active : ∀ k, (s.buffer b).pool = some k → (s.pool k).state = .active
  bound : (s.buffer b).stream.isSome = true ↔ (s.buffer b).state.inUse = true
  named : ∀ st, (s.buffer b).stream = some st →
    (s.buffer b).pool = some (s.stream st).pool ∧ (s.stream st).state ≠ .closed
  retiring : (s.buffer b).retiring = true → (s.buffer b).state.inUse = true
  listed : ∀ st, s.listed st b = true → (s.buffer b).state = .published ∧ (s.buffer b).stream = some st
  published : b ∉ X → ∀ st, (s.buffer b).state = .published → (s.buffer b).stream = some st → s.listed st b = true
  holds : ∀ st, (s.buffer b).stream = some st → (s.buffer b).holds = s.claims st b
  unbound : (s.buffer b).stream = none → (s.buffer b).holds = 0
  current : ∀ st c, s.shows st c b = true → (s.buffer b).stream = some st ∧
    ((s.buffer b).state = .published ∨ (s.buffer b).state = .held) ∧ ((s.stream st).slot c).occupied = true
  held : b ∉ X → (s.buffer b).state = .held → (s.buffer b).holds ≠ 0
  filling : b ∉ X → ∀ st, (s.buffer b).state = .filling → (s.buffer b).stream = some st → (s.stream st).producer.isSome = true
  unsignalled : ∀ st e, e ∈ (s.stream st).list → e.buffer = b → e.signalled = false → (s.buffer b).holds = 0

/-- No port holds two roles in the stream (R24). -/
structure Stream.Roles (x : Stream) : Prop where
  producer : ∀ c p, (x.slot c).occupied = true → (x.slot c).port = some p → x.producer ≠ some p
  once : ∀ c d p, (x.slot c).occupied = true → (x.slot d).occupied = true → (x.slot c).port = some p → (x.slot d).port = some p → c = d

/-- A timer has a remaining time exactly while RUNNING, and a period of at least 1 (R87). -/
def Timer.Kept (r : Timer) : Prop := (r.remaining.isSome = true ↔ r.state = .running) ∧ r.period ≠ 0

/-- The tables are consistent but for the loose buffers `X`; and a parked ACQUIRE is that of a stream with a producer, not CLOSED. -/
structure Tables (X : List BufferId) (s : State) : Prop where
  fits : ∀ b, s.Fits X b
  freeOnce : ∀ k, (s.pool k).free.Nodup
  names : ∀ st, (s.stream st).state ≠ .closed → (s.pool (s.stream st).pool).state = .active
  registered : ∀ k, (s.pool k).registered = allBuffers.countP fun b => (s.buffer b).pool == some k
  listedOnce : ∀ st, ((s.stream st).list.map Entry.buffer).Nodup
  wait : ∀ k st, st ∈ (s.pool k).wait ↔ (s.stream st).pool = k ∧ (s.stream st).parked.isSome = true
  waitOnce : ∀ k, (s.pool k).wait.Nodup
  roles : ∀ st, (s.stream st).Roles
  parked : ∀ st, (s.stream st).parked.isSome = true → (s.stream st).producer.isSome = true ∧ (s.stream st).state ≠ .closed
  timers : ∀ i, (s.timer i).Kept

theorem Tables.sound {s : State} (h : Tables [] s) : TablesSound s where
  free k b := (h.fits b).free k
  freeOnce := h.freeOnce
  pool b := (h.fits b).pool
  active b := (h.fits b).active
  bound b := (h.fits b).bound
  named b := (h.fits b).named
  names := h.names
  retiring b := (h.fits b).retiring
  registered := h.registered
  published b st := ⟨(h.fits b).listed st, fun ⟨published, bound⟩ => (h.fits b).published (List.not_mem_nil) st published bound⟩
  listedOnce := h.listedOnce
  holds b := (h.fits b).holds
  unbound b := (h.fits b).unbound
  current b := (h.fits b).current
  held b := (h.fits b).held List.not_mem_nil
  filling b := (h.fits b).filling List.not_mem_nil
  wait := h.wait
  waitOnce := h.waitOnce
  unsignalled st e he := (h.fits e.buffer).unsignalled st e he rfl
  roles st := (h.roles st).producer
  slotsOnce st := (h.roles st).once
  timer i := (h.timers i).1
  period i := (h.timers i).2

theorem TablesSound.tables {s : State} (h : TablesSound s) (parked : ∀ st, (s.stream st).parked.isSome = true →
    (s.stream st).producer.isSome = true ∧ (s.stream st).state ≠ .closed) : Tables [] s where
  fits b :=
    { free := fun k => h.free k b
      pool := h.pool b
      active := h.active b
      bound := h.bound b
      named := h.named b
      retiring := h.retiring b
      listed := fun st hl => (h.published b st).mp hl
      published := fun _ st published bound => (h.published b st).mpr ⟨published, bound⟩
      holds := h.holds b
      unbound := h.unbound b
      current := h.current b
      held := fun _ => h.held b
      filling := fun _ => h.filling b
      unsignalled := fun st e he hb hu => hb ▸ h.unsignalled st e he hu }
  freeOnce := h.freeOnce
  names := h.names
  registered := h.registered
  listedOnce := h.listedOnce
  wait := h.wait
  waitOnce := h.waitOnce
  roles st := ⟨h.roles st, h.slotsOnce st⟩
  parked := parked
  timers i := ⟨h.timer i, h.period i⟩

/-! ### What the lists, slots and counts say -/

theorem listed_iff {s : State} {st : StreamId} {b : BufferId} :
    s.listed st b = true ↔ b ∈ (s.stream st).list.map Entry.buffer := by
  simp [State.listed]

theorem shows_iff {s : State} {st : StreamId} {c : SlotId} {b : BufferId} :
    s.shows st c b = true ↔ ((s.stream st).slot c).current = some b := by
  simp [State.shows]

theorem listed_congr {s t : State} {st : StreamId}
    (h : (t.stream st).list.map Entry.buffer = (s.stream st).list.map Entry.buffer) (b : BufferId) : t.listed st b = s.listed st b := by
  rw [Bool.eq_iff_iff, listed_iff, listed_iff, h]

theorem shows_congr {s t : State} {st : StreamId} (h : ∀ c, ((t.stream st).slot c).current = ((s.stream st).slot c).current)
    (c : SlotId) (b : BufferId) : t.shows st c b = s.shows st c b := by
  unfold State.shows
  rw [h]

theorem claims_congr {s t : State} {st : StreamId} (h : ∀ c, ((t.stream st).slot c).current = ((s.stream st).slot c).current)
    (b : BufferId) : t.claims st b = s.claims st b :=
  List.countP_congr fun c _ => by rw [shows_congr h]

/-- One element of a list counted otherwise. -/
theorem countP_change {α : Type} {l : List α} (hl : l.Nodup) {a : α} (ha : a ∈ l) {q q' : α → Bool} (others : ∀ x, x ≠ a → q' x = q x) :
    l.countP q' + (if q a = true then 1 else 0) = l.countP q + (if q' a = true then 1 else 0) := by
  induction l with
  | nil => cases ha
  | cons x l ih =>
    obtain ⟨hx, hl⟩ := List.nodup_cons.mp hl
    by_cases hxa : x = a
    · subst hxa
      have rest : l.countP q' = l.countP q := List.countP_congr fun y hy => by rw [others y fun hyx => hx (hyx ▸ hy)]
      rw [List.countP_cons, List.countP_cons, rest]
      omega
    · have := ih hl ((List.mem_cons.mp ha).resolve_left fun h => hxa h.symm)
      rw [List.countP_cons, List.countP_cons, others x hxa]
      omega

theorem allBuffers_nodup : allBuffers.Nodup := by rw [allBuffers_eq]; exact List.nodup_finRange 64

theorem allSlots_nodup : allSlots.Nodup := by rw [allSlots_eq]; exact List.nodup_finRange 3

/-- One buffer of another pool, and each pool's count with it. -/
theorem registered_change {s t : State} (b : BufferId) (others : ∀ c, c ≠ b → t.buffer c = s.buffer c) (k : PoolId) :
    (allBuffers.countP fun c => (t.buffer c).pool == some k) + (if (s.buffer b).pool = some k then 1 else 0) =
      (allBuffers.countP fun c => (s.buffer c).pool == some k) + (if (t.buffer b).pool = some k then 1 else 0) := by
  have := countP_change allBuffers_nodup (mem_allBuffers b) (q := fun c => (s.buffer c).pool == some k)
    (q' := fun c => (t.buffer c).pool == some k) fun c hc => by rw [others c hc]
  simpa only [beq_iff_eq] using this

/-- One slot shows another buffer, and each buffer's claims with it. -/
theorem claims_change {s t : State} {st : StreamId} (c : SlotId)
    (others : ∀ d, d ≠ c → ((t.stream st).slot d).current = ((s.stream st).slot d).current) (b : BufferId) :
    t.claims st b + (if ((s.stream st).slot c).current = some b then 1 else 0) =
      s.claims st b + (if ((t.stream st).slot c).current = some b then 1 else 0) := by
  have := countP_change allSlots_nodup (mem_allSlots c) (q := fun d => s.shows st d b) (q' := fun d => t.shows st d b)
    fun d hd => by unfold State.shows; rw [others d hd]
  simp only [shows_iff] at this
  exact this

section tables
variable {X Y : List BufferId} {s t : State}

/-- A buffer that no slot shows has no claim on it. -/
theorem claims_eq_zero {st : StreamId} {b : BufferId} (h : ∀ c, s.shows st c b = false) : s.claims st b = 0 :=
  List.countP_eq_zero.mpr fun c _ => by simp [h c]

/-- A buffer that is neither PUBLISHED nor HELD has no hold. -/
theorem State.Fits.holds_eq_zero {b : BufferId} (h : s.Fits X b) (unpublished : (s.buffer b).state ≠ .published)
    (unheld : (s.buffer b).state ≠ .held) : (s.buffer b).holds = 0 := by
  cases hb : (s.buffer b).stream with
  | none => exact h.unbound hb
  | some st =>
    rw [h.holds st hb]
    refine claims_eq_zero fun c => by_contra fun hc => ?_
    obtain ⟨_, state, _⟩ := h.current st c (by simpa using hc)
    exact state.elim unpublished unheld

/-- A bound buffer is unlisted where it is not PUBLISHED. -/
theorem State.Fits.not_listed {b : BufferId} (h : s.Fits X b) (unpublished : (s.buffer b).state ≠ .published) (st : StreamId) :
    s.listed st b = false := by
  by_contra hl
  exact unpublished (h.listed st (by simpa using hl)).1

theorem State.Fits.mono {b : BufferId} (h : s.Fits X b) (sub : b ∈ X → b ∈ Y) : s.Fits Y b :=
  { h with published := fun hb => h.published (mt sub hb), held := fun hb => h.held (mt sub hb), filling := fun hb => h.filling (mt sub hb) }

theorem Tables.mono (h : Tables X s) (sub : X ⊆ Y) : Tables Y s :=
  { h with fits := fun b => (h.fits b).mono fun hb => sub hb }

/-- A loose buffer whose state asks for nothing that is missing is loose no more. -/
theorem Tables.tighten {b : BufferId} (h : Tables (b :: X) s)
    (published : ∀ st, (s.buffer b).state = .published → (s.buffer b).stream = some st → s.listed st b = true)
    (held : (s.buffer b).state = .held → (s.buffer b).holds ≠ 0)
    (filling : ∀ st, (s.buffer b).state = .filling → (s.buffer b).stream = some st → (s.stream st).producer.isSome = true) :
    Tables X s := by
  refine { h with fits := fun c => ?_ }
  by_cases hc : c = b
  · subst hc
    exact { h.fits c with published := fun _ => published, held := fun _ => held, filling := fun _ => filling }
  · exact (h.fits c).mono fun hm => (List.mem_cons.mp hm).resolve_left hc

/-! ### Changes that no table reads -/

/-- A buffer fits as it did where its record, its place on the free lists and the streams but for their parked ACQUIREs are as they were, and
its pool is ACTIVE. -/
theorem State.Fits.congr {b : BufferId} (h : s.Fits X b) (buffer : t.buffer b = s.buffer b)
    (free : ∀ k, b ∈ (t.pool k).free ↔ b ∈ (s.pool k).free) (active : ∀ k, (s.buffer b).pool = some k → (t.pool k).state = .active)
    (stream : ∀ st, t.stream st = { s.stream st with parked := (t.stream st).parked }) : t.Fits X b := by
  have state (st : StreamId) : (t.stream st).state = (s.stream st).state := by rw [stream]
  have poolOf (st : StreamId) : (t.stream st).pool = (s.stream st).pool := by rw [stream]
  have producer (st : StreamId) : (t.stream st).producer = (s.stream st).producer := by rw [stream]
  have list (st : StreamId) : (t.stream st).list = (s.stream st).list := by rw [stream]
  have slot (st : StreamId) (c : SlotId) : (t.stream st).slot c = (s.stream st).slot c := by rw [stream]; rfl
  have listed (st : StreamId) : t.listed st b = s.listed st b := by unfold State.listed; rw [list]
  have shows' (st : StreamId) (c : SlotId) : t.shows st c b = s.shows st c b := shows_congr (fun c => by rw [slot]) c b
  have claims (st : StreamId) : t.claims st b = s.claims st b := claims_congr (fun c => by rw [slot]) b
  constructor
  all_goals simp only [buffer, free, state, poolOf, producer, list, slot, listed, shows', claims]
  · exact h.free
  · exact h.pool
  · exact active
  · exact h.bound
  · exact h.named
  · exact h.retiring
  · exact h.listed
  · exact h.published
  · exact h.holds
  · exact h.unbound
  · exact h.current
  · exact h.held
  · exact h.filling
  · exact h.unsignalled

/-- Ports, owners, wait queues with the parked ACQUIREs they follow, and what stands outside the records may change. -/
theorem Tables.rewait (h : Tables X s) (buffer : ∀ b, t.buffer b = s.buffer b)
    (pool : ∀ k, t.pool k = { s.pool k with owner := (t.pool k).owner, wait := (t.pool k).wait })
    (stream : ∀ st, t.stream st = { s.stream st with parked := (t.stream st).parked })
    (wait : ∀ k st, st ∈ (t.pool k).wait ↔ (t.stream st).pool = k ∧ (t.stream st).parked.isSome = true)
    (waitOnce : ∀ k, (t.pool k).wait.Nodup)
    (parked : ∀ st, (t.stream st).parked.isSome = true → (s.stream st).producer.isSome = true ∧ (s.stream st).state ≠ .closed)
    (timer : ∀ i, (t.timer i).Kept) : Tables X t where
  fits b := (h.fits b).congr (buffer b) (fun k => by rw [pool]) (fun k hk => by rw [pool]; exact (h.fits b).active k hk) stream
  freeOnce k := by rw [pool]; exact h.freeOnce k
  names st := by rw [stream, pool]; exact h.names st
  registered k := by rw [pool]; simp only [buffer]; exact h.registered k
  listedOnce st := by rw [stream]; exact h.listedOnce st
  wait := wait
  waitOnce := waitOnce
  roles st := by rw [stream]; exact ⟨(h.roles st).producer, (h.roles st).once⟩
  parked st hp := by
    obtain ⟨producer, opened⟩ := parked st hp
    rw [stream]
    exact ⟨producer, opened⟩
  timers := timer

/-- Ports, owners and what stands outside the records may change. -/
theorem Tables.congr (h : Tables X s) (buffer : ∀ b, t.buffer b = s.buffer b)
    (pool : ∀ k, t.pool k = { s.pool k with owner := (t.pool k).owner }) (stream : ∀ st, t.stream st = s.stream st)
    (timer : ∀ i, (t.timer i).Kept) : Tables X t :=
  h.rewait buffer (fun k => by rw [pool]) (fun st => by rw [stream]) (fun k st => by rw [stream, pool]; exact h.wait k st)
    (fun k => by rw [pool]; exact h.waitOnce k) (fun st hp => h.parked st (by rw [← stream]; exact hp)) timer

theorem Tables.of_ports (h : Tables X s) (buffers : t.buffers = s.buffers) (pools : t.pools = s.pools) (streams : t.streams = s.streams)
    (timers : t.timers = s.timers) : Tables X t :=
  h.congr (fun b => by unfold State.buffer; rw [buffers]) (fun k => by unfold State.pool; rw [pools])
    (fun st => by unfold State.stream; rw [streams]) fun i => by unfold State.timer; rw [timers]; exact h.timers i

theorem Tables.modPort (h : Tables X s) (p : Port) (f : PortRecord → PortRecord) : Tables X (s.modPort p f) :=
  h.of_ports rfl rfl rfl rfl

theorem Tables.queueNoticeTo (h : Tables X s) (p : Option Port) (n : Notice) : Tables X (queueNoticeTo p n s) := by
  cases p with
  | none => exact h
  | some p => exact h.modPort p _

theorem Tables.queueNotices (h : Tables X s) (ps : List Port) (n : Notice) : Tables X (queueNotices ps n s) := by
  induction ps generalizing s with
  | nil => exact h
  | cons p ps ih => exact ih (h.modPort p _)

/-! ### One buffer record changes, and its place on the free lists -/

theorem Tables.change_buffer (h : Tables X s) (b : BufferId) (buffer : ∀ c, c ≠ b → t.buffer c = s.buffer c)
    (pool : ∀ k, (t.pool k).state = (s.pool k).state ∧ (t.pool k).wait = (s.pool k).wait)
    (free : ∀ k c, c ≠ b → (c ∈ (t.pool k).free ↔ c ∈ (s.pool k).free)) (once : ∀ k, (t.pool k).free.Nodup)
    (registered : ∀ k, (t.pool k).registered + (if (s.buffer b).pool = some k then 1 else 0) =
      (s.pool k).registered + (if (t.buffer b).pool = some k then 1 else 0))
    (stream : ∀ st, t.stream st = s.stream st) (timer : ∀ i, t.timer i = s.timer i) (sub : ∀ c, c ≠ b → c ∈ X → c ∈ Y)
    (fits : t.Fits Y b) : Tables Y t where
  fits c := by
    by_cases hc : c = b
    · subst hc; exact fits
    · exact ((h.fits c).congr (buffer c hc) (fun k => free k c hc) (fun k hk => by rw [(pool k).1]; exact (h.fits c).active k hk)
        fun st => by rw [stream]).mono (sub c hc)
  freeOnce := once
  names st := by rw [stream, (pool _).1]; exact h.names st
  registered k := by
    have count := registered_change b buffer k
    have before := h.registered k
    have change := registered k
    omega
  listedOnce st := by rw [stream]; exact h.listedOnce st
  wait k st := by rw [stream, (pool k).2]; exact h.wait k st
  waitOnce k := by rw [(pool k).2]; exact h.waitOnce k
  roles st := by rw [stream]; exact h.roles st
  parked st := by rw [stream]; exact h.parked st
  timers i := by rw [timer]; exact h.timers i

/-- One buffer record changes but for its pool, and it is on no free list before or after. -/
theorem Tables.modBuffer (h : Tables X s) (b : BufferId) {f : Buffer → Buffer} (pool : (f (s.buffer b)).pool = (s.buffer b).pool)
    (sub : ∀ c, c ≠ b → c ∈ X → c ∈ Y) (fits : (s.modBuffer b f).Fits Y b) : Tables Y (s.modBuffer b f) :=
  h.change_buffer b (fun _ hc => modBuffer_buffer_of_ne _ _ _ hc) (fun _ => ⟨rfl, rfl⟩) (fun _ _ _ => Iff.rfl) h.freeOnce
    (fun _ => by rw [modBuffer_buffer_same, pool]; rfl) (fun _ => rfl) (fun _ => rfl) sub fits

/-! ### Stream records change, and holds with them -/

/-- The record `x'` keeps of `x` what the tables read but for its slots' claims and its producer: pool, whether it is CLOSED, the buffers
of its list, a parked ACQUIRE, and no new double role. -/
structure Stream.Steady (x x' : Stream) : Prop where
  pool : x'.pool = x.pool
  closed : x'.state = .closed ↔ x.state = .closed
  buffers : x'.list.map Entry.buffer = x.list.map Entry.buffer
  parked : x'.parked.isSome = x.parked.isSome
  roles : x.Roles → x'.Roles

/-- Holds and slots change together; a stream loses its producer where it has no parked ACQUIRE and its FILLING buffers are loose. -/
theorem Tables.rehold (h : Tables X s) (buffers : ∀ b, t.buffer b = { s.buffer b with holds := (t.buffer b).holds })
    (pools : ∀ k, t.pool k = s.pool k) (streams : ∀ st, (s.stream st).Steady (t.stream st)) (timers : ∀ i, (t.timer i).Kept)
    (producer : ∀ st, (s.stream st).producer.isSome = true → (t.stream st).producer.isSome = true ∨
      (s.stream st).parked.isSome = false ∧ ∀ b, (s.buffer b).state = .filling → (s.buffer b).stream = some st → b ∈ Y)
    (holds : ∀ b st, (s.buffer b).stream = some st → (t.buffer b).holds = t.claims st b)
    (unbound : ∀ b, (s.buffer b).stream = none → (t.buffer b).holds = 0)
    (current : ∀ b st c, t.shows st c b = true → (s.buffer b).stream = some st ∧
      ((s.buffer b).state = .published ∨ (s.buffer b).state = .held) ∧ ((t.stream st).slot c).occupied = true)
    (held : ∀ b, b ∉ Y → (s.buffer b).state = .held → (t.buffer b).holds ≠ 0)
    (unsignalled : ∀ st e, e ∈ (t.stream st).list → e.signalled = false → (t.buffer e.buffer).holds = 0) (sub : X ⊆ Y) : Tables Y t := by
  have state (b : BufferId) : (t.buffer b).state = (s.buffer b).state := by rw [buffers b]
  have pool (b : BufferId) : (t.buffer b).pool = (s.buffer b).pool := by rw [buffers b]
  have stream (b : BufferId) : (t.buffer b).stream = (s.buffer b).stream := by rw [buffers b]
  have retiring (b : BufferId) : (t.buffer b).retiring = (s.buffer b).retiring := by rw [buffers b]
  have opened (st : StreamId) : (t.stream st).state ≠ .closed ↔ (s.stream st).state ≠ .closed := not_congr (streams st).closed
  refine ⟨fun b => ?_, fun k => ?_, fun st hst => ?_, fun k => ?_, fun st => ?_, fun k st => ?_, fun k => ?_, fun st => ?_, fun st hst => ?_,
    timers⟩
  · have fits := h.fits b
    refine ⟨fun k => ?_, ?_, fun k => ?_, ?_, fun st => ?_, ?_, fun st => ?_, fun hb st => ?_, fun st => ?_, ?_, fun st c => ?_,
      fun hb => ?_, fun hb st => ?_, fun st e he hb => ?_⟩
    · rw [pools, state, pool]; exact fits.free k
    · rw [state, pool]; exact fits.pool
    · rw [pools, pool]; exact fits.active k
    · rw [state, stream]; exact fits.bound
    · rw [stream, pool, (streams st).pool, opened]; exact fits.named st
    · rw [retiring, state]; exact fits.retiring
    · rw [listed_congr (streams st).buffers, state, stream]; exact fits.listed st
    · rw [listed_congr (streams st).buffers, state, stream]; exact fits.published (fun hx => hb (sub hx)) st
    · rw [stream]; exact holds b st
    · rw [stream]; exact unbound b
    · rw [stream, state]; exact current b st c
    · rw [state]; exact held b hb
    · rw [state, stream]
      intro filling bound
      exact (producer st (fits.filling (fun hx => hb (sub hx)) st filling bound)).resolve_right fun ⟨_, loose⟩ => hb (loose b filling bound)
    · rw [← hb]; exact unsignalled st e he
  · rw [pools]; exact h.freeOnce k
  · rw [pools, (streams st).pool]; exact h.names st ((opened st).mp hst)
  · simp only [pools, pool]; exact h.registered k
  · rw [(streams st).buffers]; exact h.listedOnce st
  · rw [pools, (streams st).pool, (streams st).parked]; exact h.wait k st
  · rw [pools]; exact h.waitOnce k
  · exact (streams st).roles (h.roles st)
  · rw [(streams st).parked] at hst
    obtain ⟨produced, running⟩ := h.parked st hst
    exact ⟨(producer st produced).resolve_right fun ⟨unparked, _⟩ => by simp [unparked] at hst,
      (opened st).mpr running⟩

/-- The record `x'` keeps of `x` all that the tables read; a slot that showed nothing may be taken. -/
structure Stream.Quiet (x x' : Stream) : Prop extends Stream.Steady x x' where
  producer : x.producer.isSome = true → x'.producer.isSome = true
  current : ∀ c, (x'.slot c).current = (x.slot c).current
  occupied : ∀ c, (x.slot c).occupied = true → (x'.slot c).occupied = true
  unsignalled : ∀ e' ∈ x'.list, e'.signalled = false → ∃ e ∈ x.list, e.buffer = e'.buffer ∧ e.signalled = false

theorem Stream.Steady.refl (x : Stream) : x.Steady x := ⟨rfl, Iff.rfl, rfl, rfl, id⟩

theorem Stream.Quiet.refl (x : Stream) : x.Quiet x :=
  { Stream.Steady.refl x with producer := id, current := fun _ => rfl, occupied := fun _ => id, unsignalled := fun e he hu => ⟨e, he, rfl, hu⟩ }

/-- Every stream record may change where the tables do not read it. -/
theorem Tables.quiet (h : Tables X s) (buffers : ∀ b, t.buffer b = s.buffer b) (pools : ∀ k, t.pool k = s.pool k)
    (streams : ∀ st, (s.stream st).Quiet (t.stream st)) (timers : ∀ i, (t.timer i).Kept) : Tables X t := by
  refine h.rehold (Y := X) (fun b => by rw [buffers]) pools (fun st => (streams st).toSteady) timers
    (fun st hp => .inl ((streams st).producer hp)) (fun b st hb => ?_) (fun b hb => ?_)
    (fun b st c hc => ?_) (fun b hb hs => ?_) (fun st e he hu => ?_) (fun _ => id)
  · rw [buffers, claims_congr (streams st).current]; exact (h.fits b).holds st hb
  · rw [buffers]; exact (h.fits b).unbound hb
  · rw [shows_congr (streams st).current] at hc
    obtain ⟨bound, state, occupied⟩ := (h.fits b).current st c hc
    exact ⟨bound, state, (streams st).occupied c occupied⟩
  · rw [buffers]; exact (h.fits b).held hb hs
  · obtain ⟨d, hd, same, hu'⟩ := (streams st).unsignalled e he hu
    rw [buffers, ← same]
    exact (h.fits d.buffer).unsignalled st d hd rfl hu'

theorem Tables.modStream (h : Tables X s) (st : StreamId) {f : Stream → Stream} (quiet : (s.stream st).Quiet (f (s.stream st))) :
    Tables X (s.modStream st f) := by
  refine h.quiet (fun _ => rfl) (fun _ => rfl) (fun u => ?_) h.timers
  rw [modStream_stream]
  split
  next hu => subst hu; exact quiet
  next => exact .refl _

/-! ### A list changes -/

/-- The list of one stream changes, and which of its PUBLISHED buffers are loose. -/
theorem Tables.relist (h : Tables X s) (st : StreamId) {l : List Entry} (once : (l.map Entry.buffer).Nodup)
    (listed : ∀ b ∈ l.map Entry.buffer, (s.buffer b).state = .published ∧ (s.buffer b).stream = some st)
    (published : ∀ b, b ∉ Y → (s.buffer b).state = .published → (s.buffer b).stream = some st → b ∈ l.map Entry.buffer)
    (unsignalled : ∀ e ∈ l, e.signalled = false → (s.buffer e.buffer).holds = 0)
    (loose : ∀ b, b ∈ X → b ∉ Y → (s.buffer b).state = .published ∧ (s.buffer b).stream = some st) :
    Tables Y (s.modStream st fun x => { x with list := l }) := by
  have stream (u : StreamId) : (s.modStream st fun x => { x with list := l }).stream u =
      { s.stream u with list := if u = st then l else (s.stream u).list } := by
    rw [modStream_stream]
    split
    next hu => subst hu; rfl
    next => rfl
  have buffer (b : BufferId) : (s.modStream st fun x => { x with list := l }).buffer b = s.buffer b := rfl
  have pool (k : PoolId) : (s.modStream st fun x => { x with list := l }).pool k = s.pool k := rfl
  have timer (i : TimerId) : (s.modStream st fun x => { x with list := l }).timer i = s.timer i := rfl
  generalize s.modStream st (fun x => { x with list := l }) = t at stream buffer pool timer ⊢
  have slot (u : StreamId) (c : SlotId) : (t.stream u).slot c = (s.stream u).slot c := by rw [stream]; rfl
  have claims (u : StreamId) (b : BufferId) : t.claims u b = s.claims u b := claims_congr (fun c => by rw [slot]) b
  refine ⟨fun b => ?_, fun k => ?_, fun u => ?_, fun k => ?_, fun u => ?_, fun k u => ?_, fun k => ?_, fun u => ?_, fun u => ?_,
    fun i => ?_⟩
  · have fits := h.fits b
    refine ⟨fun k => ?_, ?_, fun k => ?_, ?_, fun u => ?_, ?_, fun u hu => ?_, fun hb u => ?_, fun u => ?_, ?_, fun u c => ?_, fun hb => ?_,
      fun hb u => ?_, fun u e he hb hu => ?_⟩
    · rw [buffer, pool]; exact fits.free k
    · rw [buffer]; exact fits.pool
    · rw [buffer, pool]; exact fits.active k
    · rw [buffer]; exact fits.bound
    · rw [buffer, stream]; exact fits.named u
    · rw [buffer]; exact fits.retiring
    · rw [listed_iff, stream] at hu
      dsimp only at hu
      split_ifs at hu with hust
      · rw [buffer, hust]; exact listed b hu
      · rw [buffer]; exact fits.listed u (listed_iff.mpr hu)
    · rw [buffer, listed_iff, stream]
      dsimp only
      intro state bound
      split_ifs with hust
      · exact published b hb state (hust ▸ bound)
      · by_cases hx : b ∈ X
        · exact absurd (Option.some.inj (bound.symm.trans (loose b hx hb).2)) hust
        · exact listed_iff.mp (fits.published hx u state bound)
    · rw [buffer, claims]; exact fits.holds u
    · rw [buffer]; exact fits.unbound
    · rw [shows_congr (s := s) fun c => by rw [slot], buffer, slot]; exact fits.current u c
    · rw [buffer]
      intro state
      by_cases hx : b ∈ X
      · rw [(loose b hx hb).1] at state; cases state
      · exact fits.held hx state
    · rw [buffer, stream]
      intro state bound
      by_cases hx : b ∈ X
      · rw [(loose b hx hb).1] at state; cases state
      · exact fits.filling hx u state bound
    · rw [stream] at he
      dsimp only at he
      rw [buffer]
      split_ifs at he
      · rw [← hb]; exact unsignalled e he hu
      · exact fits.unsignalled u e he hb hu
  · rw [pool]; exact h.freeOnce k
  · rw [stream, pool]; exact h.names u
  · simp only [pool, buffer]; exact h.registered k
  · rw [stream]
    dsimp only
    split_ifs
    · exact once
    · exact h.listedOnce u
  · rw [stream, pool]; exact h.wait k u
  · rw [pool]; exact h.waitOnce k
  · rw [stream]; exact ⟨(h.roles u).producer, (h.roles u).once⟩
  · rw [stream]; exact h.parked u
  · rw [timer]; exact h.timers i

/-- Entries leave a list: their buffers are loose. -/
theorem Tables.without (h : Tables X s) (st : StreamId) (bs : List BufferId) :
    Tables (bs ++ X) (s.modStream st fun x => { x with list := Machine.without x.list bs }) := by
  have kept : s.modStream st (fun x => { x with list := Machine.without x.list bs }) =
      s.modStream st fun x => { x with list := Machine.without (s.stream st).list bs } := rfl
  have sub : (Machine.without (s.stream st).list bs).Sublist (s.stream st).list := List.filter_sublist
  rw [kept]
  refine h.relist st ((h.listedOnce st).sublist (sub.map _)) (fun b hb => ?_) (fun b hb state bound => ?_)
    (fun e he hu => (h.fits e.buffer).unsignalled st e (sub.subset he) rfl hu) fun b hx hb => absurd (List.mem_append_right _ hx) hb
  · exact (h.fits b).listed st (listed_iff.mpr ((sub.map _).subset hb))
  · simp only [List.mem_append, not_or] at hb
    obtain ⟨e, he, rfl⟩ := List.mem_map.mp (listed_iff.mp ((h.fits b).published hb.2 st state bound))
    exact List.mem_map_of_mem (List.mem_filter.mpr ⟨he, by simpa using hb.1⟩)

/-! ### A stream that no buffer is bound to is replaced -/

theorem Tables.replace (h : Tables X s) (st : StreamId) {f : Stream → Stream} (unbound : ∀ b, (s.buffer b).stream ≠ some st)
    (unparked : (s.stream st).parked = none) (list : (f (s.stream st)).list = []) (current : ∀ c, ((f (s.stream st)).slot c).current = none)
    (parked : (f (s.stream st)).parked = none)
    (names : (f (s.stream st)).state ≠ .closed → (s.pool (f (s.stream st)).pool).state = .active) (roles : (f (s.stream st)).Roles) :
    Tables X (s.modStream st f) := by
  have stream (u : StreamId) : (s.modStream st f).stream u = if u = st then f (s.stream st) else s.stream u := modStream_stream ..
  have buffer (b : BufferId) : (s.modStream st f).buffer b = s.buffer b := rfl
  have pool (k : PoolId) : (s.modStream st f).pool k = s.pool k := rfl
  have timer (i : TimerId) : (s.modStream st f).timer i = s.timer i := rfl
  generalize s.modStream st f = t at stream buffer pool timer ⊢
  have own : t.stream st = f (s.stream st) := by rw [stream, if_pos rfl]
  have other {u : StreamId} (hu : u ≠ st) : t.stream u = s.stream u := by rw [stream, if_neg hu]
  have bound_ne {b : BufferId} {u : StreamId} (hb : (s.buffer b).stream = some u) : u ≠ st := fun hu => unbound b (hu ▸ hb)
  have listed (u : StreamId) (b : BufferId) : t.listed u b = true → u ≠ st ∧ s.listed u b = true := by
    intro hl
    rw [listed_iff] at hl
    by_cases hu : u = st
    · subst hu; rw [own, list] at hl; cases hl
    · rw [other hu] at hl; exact ⟨hu, listed_iff.mpr hl⟩
  refine ⟨fun b => ?_, fun k => ?_, fun u => ?_, fun k => ?_, fun u => ?_, fun k u => ?_, fun k => ?_, fun u => ?_, fun u => ?_,
    fun i => ?_⟩
  · have fits := h.fits b
    refine ⟨fun k => ?_, ?_, fun k => ?_, ?_, fun u hb => ?_, ?_, fun u hu => ?_, fun hb u state bound => ?_, fun u hb => ?_, ?_,
      fun u c hc => ?_, fun hb => ?_, fun hb u state bound => ?_, fun u e he hb hu => ?_⟩
    · rw [buffer, pool]; exact fits.free k
    · rw [buffer]; exact fits.pool
    · rw [buffer, pool]; exact fits.active k
    · rw [buffer]; exact fits.bound
    · rw [buffer] at hb ⊢; rw [other (bound_ne hb)]; exact fits.named u hb
    · rw [buffer]; exact fits.retiring
    · rw [buffer]; exact fits.listed u (listed u b hu).2
    · rw [buffer] at state bound
      rw [listed_iff, other (bound_ne bound)]
      exact listed_iff.mp (fits.published hb u state bound)
    · rw [buffer] at hb ⊢
      rw [claims_congr (s := s) fun c => by rw [other (bound_ne hb)]]
      exact fits.holds u hb
    · rw [buffer]; exact fits.unbound
    · rw [shows_iff] at hc
      by_cases hu : u = st
      · subst hu; rw [own, current] at hc; cases hc
      · rw [other hu] at hc ⊢; rw [buffer]; exact fits.current u c (shows_iff.mpr hc)
    · rw [buffer]; exact fits.held hb
    · rw [buffer] at state bound; rw [other (bound_ne bound)]; exact fits.filling hb u state bound
    · by_cases hu' : u = st
      · subst hu'; rw [own, list] at he; cases he
      · rw [other hu'] at he; rw [buffer]; exact fits.unsignalled u e he hb hu
  · rw [pool]; exact h.freeOnce k
  · by_cases hu : u = st
    · subst hu; rw [own, pool]; exact names
    · rw [other hu, pool]; exact h.names u
  · simp only [pool, buffer]; exact h.registered k
  · by_cases hu : u = st
    · subst hu; rw [own, list]; exact .nil
    · rw [other hu]; exact h.listedOnce u
  · rw [pool]
    by_cases hu : u = st
    · subst hu; rw [own, h.wait, unparked, parked]; simp
    · rw [other hu]; exact h.wait k u
  · rw [pool]; exact h.waitOnce k
  · by_cases hu : u = st
    · subst hu; rw [own]; exact roles
    · rw [other hu]; exact h.roles u
  · by_cases hu : u = st
    · subst hu; rw [own, parked]; simp
    · rw [other hu]; exact h.parked u
  · rw [timer]; exact h.timers i

end tables

end Sys2Proof.Machine
end

section
/-!
PROOFS. The tables stay consistent (O60), second part: the shared operations on buffers. A parked ACQUIRE ends, the arbiter grants, a buffer is
released, judged after its entry has left the list, and released with its stream's other FILLING buffers.
-/

namespace Sys2Proof.Machine

section tables
variable {X : List BufferId} {s t : State}

/-! ### A parked ACQUIRE ends -/

/-- Stream `st` leaves its wait queue as its parked ACQUIRE ends. -/
theorem Tables.unpark (h : Tables X s) (st : StreamId) (buffer : ∀ b, t.buffer b = s.buffer b)
    (stream : ∀ u, t.stream u = if u = st then { s.stream st with parked := none } else s.stream u)
    (pool : ∀ k, t.pool k = if k = (s.stream st).pool then { s.pool k with wait := (s.pool k).wait.erase st } else s.pool k)
    (timer : ∀ i, t.timer i = s.timer i) : Tables X t := by
  have poolOf (u : StreamId) : (t.stream u).pool = (s.stream u).pool := by
    rw [stream]
    split
    next hu => rw [hu]
    next => rfl
  have parked (u : StreamId) : (t.stream u).parked.isSome = true ↔ u ≠ st ∧ (s.stream u).parked.isSome = true := by
    rw [stream]
    split
    next hu => simp [hu]
    next hu => simp [hu]
  refine h.rewait buffer (fun k => ?_) (fun u => ?_) (fun k u => ?_) (fun k => ?_) (fun u hu => h.parked u ((parked u).mp hu).2) fun i => ?_
  · rw [pool]; split <;> rfl
  · rw [stream]
    split
    next hu => rw [hu]
    next => rfl
  · rw [poolOf, parked, pool]
    split
    next hk => rw [(h.waitOnce k).mem_erase_iff, h.wait]; tauto
    next hk =>
      rw [h.wait]
      exact ⟨fun ⟨hu, hp⟩ => ⟨hu, fun hust => hk (by rw [← hu, hust]), hp⟩, fun ⟨hu, _, hp⟩ => ⟨hu, hp⟩⟩
  · rw [pool]
    split
    · exact (h.waitOnce k).erase st
    · exact h.waitOnce k
  · rw [timer]; exact h.timers i

theorem Tables.endParked (h : Tables X s) (st : StreamId) : Tables X (endParked st s) :=
  h.unpark st (endParked_buffer st s) (endParked_stream st s) (endParked_pool st s) fun _ => rfl

theorem Tables.completeParked (h : Tables X s) (st : StreamId) (reply : Reply) : Tables X (completeParked st reply s) :=
  h.unpark st (completeParked_buffer st reply s) (completeParked_stream st reply s) (completeParked_pool st reply s)
    (follows_completeParked st reply s).timer

theorem Tables.cancelParked (h : Tables X s) (st : StreamId) : Tables X (cancelParked st s) := by
  unfold Machine.cancelParked
  split
  · exact h.completeParked st _
  · exact h

/-! ### A buffer that no list holds and no slot shows -/

/-- A buffer without a hold is shown by no slot. -/
theorem State.Fits.not_shown {b : BufferId} (h : s.Fits X b) (unheld : (s.buffer b).holds = 0) (st : StreamId) (c : SlotId) :
    s.shows st c b = false := by
  by_contra hc
  have shown : s.shows st c b = true := by simpa using hc
  rw [h.holds st (h.current st c shown).1] at unheld
  exact List.countP_eq_zero.mp unheld c (mem_allSlots c) shown

/-- The record `r` of a buffer that no list holds and no slot shows: VACANT, FREE, or FILLING for a stream with a producer. -/
structure Buffer.Apart (s : State) (r : Buffer) : Prop where
  state : r.state = .vacant ∨ r.state = .free ∨ r.state = .filling
  pool : r.pool = none ↔ r.state = .vacant
  bound : r.stream.isSome = true ↔ r.state = .filling
  named : ∀ st, r.stream = some st →
    r.pool = some (s.stream st).pool ∧ (s.stream st).state ≠ .closed ∧ (s.stream st).producer.isSome = true
  holds : r.holds = 0
  retiring : r.retiring = true → r.state = .filling

theorem Buffer.apart_vacant {r : Buffer} (state : r.state = .vacant) (pool : r.pool = none) (stream : r.stream = none) (holds : r.holds = 0)
    (retiring : r.retiring = false) : r.Apart s where
  state := .inl state
  pool := by simp [state, pool]
  bound := by simp [state, stream]
  named st hst := by rw [stream] at hst; cases hst
  holds := holds
  retiring hr := by rw [retiring] at hr; cases hr

theorem Buffer.apart_free {r : Buffer} {k : PoolId} (state : r.state = .free) (pool : r.pool = some k) (stream : r.stream = none)
    (holds : r.holds = 0) (retiring : r.retiring = false) : r.Apart s where
  state := .inr (.inl state)
  pool := by simp [state, pool]
  bound := by simp [state, stream]
  named st hst := by rw [stream] at hst; cases hst
  holds := holds
  retiring hr := by rw [retiring] at hr; cases hr

/-- A buffer that no list holds and no slot shows fits where its record is one of those. -/
theorem Buffer.Apart.fits {b : BufferId} (h : (t.buffer b).Apart s) (stream : ∀ st, t.stream st = s.stream st)
    (unlisted : ∀ st, s.listed st b = false) (unshown : ∀ st c, s.shows st c b = false)
    (free : ∀ k, b ∈ (t.pool k).free ↔ (t.buffer b).state = .free ∧ (t.buffer b).pool = some k)
    (active : ∀ k, (t.buffer b).pool = some k → (t.pool k).state = .active) : t.Fits X b := by
  have inUse : (t.buffer b).state.inUse = true ↔ (t.buffer b).state = .filling := by
    rcases h.state with hs | hs | hs <;> rw [hs] <;> decide
  have unpublished : (t.buffer b).state ≠ .published ∧ (t.buffer b).state ≠ .held := by
    rcases h.state with hs | hs | hs <;> rw [hs] <;> decide
  have listed' (st : StreamId) : t.listed st b = false := by
    rw [listed_congr (s := s) (by rw [stream]), unlisted]
  have shows' (st : StreamId) (c : SlotId) : t.shows st c b = false := by
    rw [shows_congr (s := s) (fun c => by rw [stream]), unshown]
  exact
    { free := free
      pool := h.pool
      active := active
      bound := h.bound.trans inUse.symm
      named := fun st hst => by rw [stream]; exact ⟨(h.named st hst).1, (h.named st hst).2.1⟩
      retiring := fun hr => inUse.mpr (h.retiring hr)
      listed := fun st hl => by rw [listed'] at hl; cases hl
      published := fun _ st hp => absurd hp unpublished.1
      holds := fun st _ => by rw [h.holds, claims_eq_zero (shows' st)]
      unbound := fun _ => h.holds
      current := fun st c hc => by rw [shows'] at hc; cases hc
      held := fun _ hh => absurd hh unpublished.2
      filling := fun _ st _ hst => by rw [stream]; exact (h.named st hst).2.2
      unsignalled := fun _ _ _ _ _ => h.holds }

/-- A buffer that no list holds and no slot shows changes its record, and pool `k`, the only one it is of before or after, its free list. -/
theorem Tables.move {Y : List BufferId} (h : Tables X s) (b : BufferId) (k : PoolId) {f : Buffer → Buffer} {g : Pool → Pool}
    (unlisted : ∀ st, s.listed st b = false) (unheld : (s.buffer b).holds = 0) (sub : ∀ c, c ≠ b → c ∈ X → c ∈ Y)
    (apart : (f (s.buffer b)).Apart s) (before : ∀ j, (s.buffer b).pool = some j → j = k)
    (after : ∀ j, (f (s.buffer b)).pool = some j → j = k)
    (pool : (g (s.pool k)).state = (s.pool k).state ∧ (g (s.pool k)).wait = (s.pool k).wait)
    (active : (f (s.buffer b)).pool = some k → (s.pool k).state = .active)
    (others : ∀ c, c ≠ b → (c ∈ (g (s.pool k)).free ↔ c ∈ (s.pool k).free)) (once : (g (s.pool k)).free.Nodup)
    (free : b ∈ (g (s.pool k)).free ↔ (f (s.buffer b)).state = .free ∧ (f (s.buffer b)).pool = some k)
    (registered : (g (s.pool k)).registered + (if (s.buffer b).pool = some k then 1 else 0) =
      (s.pool k).registered + (if (f (s.buffer b)).pool = some k then 1 else 0)) :
    Tables Y ((s.modBuffer b f).modPool k g) := by
  have fits := h.fits b
  have own : ((s.modBuffer b f).modPool k g).buffer b = f (s.buffer b) := modBuffer_buffer_same ..
  have same : ((s.modBuffer b f).modPool k g).pool k = g (s.pool k) := modPool_pool_same ..
  have other (j : PoolId) (hj : j ≠ k) : ((s.modBuffer b f).modPool k g).pool j = s.pool j := modPool_pool_of_ne _ _ _ hj
  have unmoved (j : PoolId) (hj : j ≠ k) : (s.buffer b).pool ≠ some j ∧ (f (s.buffer b)).pool ≠ some j :=
    ⟨fun hb => hj (before j hb), fun hb => hj (after j hb)⟩
  refine h.change_buffer b (fun c hc => modBuffer_buffer_of_ne _ _ _ hc) (fun j => ?_) (fun j c hc => ?_) (fun j => ?_) (fun j => ?_)
    (fun _ => rfl) (fun _ => rfl) sub
    (Buffer.Apart.fits (s := s) (by rw [own]; exact apart) (fun _ => rfl) unlisted (fits.not_shown unheld) (fun j => ?_) fun j hj => ?_)
  all_goals rcases eq_or_ne j k with rfl | hj
  · rw [same]; exact pool
  · rw [other j hj]; exact ⟨rfl, rfl⟩
  · rw [same]; exact others c hc
  · rw [other j hj]
  · rw [same]; exact once
  · rw [other j hj]; exact h.freeOnce j
  · rw [same, own]; exact registered
  · rw [other j hj, own, if_neg (unmoved j hj).1, if_neg (unmoved j hj).2]
  · rw [same, own]; exact free
  · rw [other j hj, own]
    exact iff_of_false (fun hb => (unmoved j hj).1 ((fits.free j).mp hb).2) fun hb => (unmoved j hj).2 hb.2
  · rw [own] at hj; rw [same, pool.1]; exact active hj
  · rename_i hk; rw [own] at hk; exact absurd hk (unmoved j hj).2

/-! ### Grants -/

/-- A FREE or VACANT buffer is bound to nothing. -/
theorem State.Fits.unbound_of_unused {b : BufferId} (h : s.Fits X b) (unused : (s.buffer b).state.inUse = false) :
    (s.buffer b).stream = none := by
  by_contra hb
  have := h.bound.mp (Option.isSome_iff_ne_none.mpr hb)
  rw [unused] at this
  cases this

/-- A buffer of the pool's free list is granted to a stream of that pool with a producer. -/
theorem Tables.grant (h : Tables X s) {k : PoolId} {st : StreamId} {b : BufferId} (free : b ∈ (s.pool k).free)
    (pool : (s.stream st).pool = k) (opened : (s.stream st).state ≠ .closed) (produced : (s.stream st).producer.isSome = true) :
    Tables X (grant k st b s) := by
  have fits := h.fits b
  obtain ⟨state, poolOf⟩ := (fits.free k).mp free
  have unheld := fits.unbound (fits.unbound_of_unused (by rw [state]; rfl))
  have moved := h.move (Y := X) b k (f := fun r => { r with state := .filling, generation := r.generation + 1, stream := some st })
    (g := fun q => { q with free := q.free.erase b }) (fits.not_listed (by simp [state])) unheld (fun _ _ => id)
    { state := .inr (.inr rfl)
      pool := by simp [poolOf]
      bound := by simp
      named := fun u hu => by cases hu; exact ⟨by rw [pool]; exact poolOf, opened, produced⟩
      holds := unheld
      retiring := fun _ => rfl }
    (fun j hj => by simpa [poolOf, eq_comm] using hj) (fun j hj => by simpa [poolOf, eq_comm] using hj) ⟨rfl, rfl⟩ (fits.active k)
    (fun c hc => List.mem_erase_of_ne hc) ((h.freeOnce k).erase b) (by simp [(h.freeOnce k).mem_erase_iff]) rfl
  exact moved

/-- The arbiter's choice is a stream of the pool with a parked ACQUIRE. -/
theorem Tables.waiting (h : Tables X s) {k : PoolId} {st : StreamId} (chosen : chooseWaiter (s.pool k).wait s = some st) :
    (s.stream st).pool = k ∧ (s.stream st).producer.isSome = true ∧ (s.stream st).state ≠ .closed := by
  obtain ⟨pool, parked⟩ := (h.wait k st).mp (chooseWaiter_eligible chosen).1
  exact ⟨pool, h.parked st parked⟩

/-- The arbiter keeps the tables, and the records of buffers that are not FREE. -/
theorem Tables.runArbiter (h : Tables X s) (k : PoolId) :
    Tables X (runArbiter k s) ∧ ∀ c, (s.buffer c).state ≠ .free → (runArbiter k s).buffer c = s.buffer c := by
  refine runArbiter_induction (motive := fun t => Tables X t ∧ ∀ c, (s.buffer c).state ≠ .free → t.buffer c = s.buffer c)
    ⟨h, fun _ _ => rfl⟩ fun t b rest st ⟨ht, kept⟩ free chosen => ?_
  obtain ⟨pool, produced, opened⟩ := ht.waiting chosen
  have hb : b ∈ (t.pool k).free := by rw [free]; exact List.mem_cons_self
  refine ⟨(ht.grant hb pool opened produced).completeParked st _, fun c hc => ?_⟩
  have ne : c ≠ b := by
    rintro rfl
    rw [← kept c hc] at hc
    exact hc (((ht.fits c).free k).mp hb).1
  unfold arbiterGrant
  rw [completeParked_buffer, ← kept c hc]
  exact modBuffer_buffer_of_ne _ _ _ ne

/-! ### Release -/

theorem Tables.noticeRecycled (h : Tables X s) (b : BufferId) (r : Buffer) : Tables X (noticeRecycled b r s) := by
  unfold Machine.noticeRecycled
  split
  · exact h.queueNoticeTo _ _
  · exact h

@[simp] theorem noticeRecycled_buffer (b : BufferId) (r : Buffer) (s : State) (c : BufferId) : (noticeRecycled b r s).buffer c = s.buffer c := by
  unfold Machine.noticeRecycled
  split
  · exact queueNoticeTo_buffer ..
  · rfl

/-- A buffer in use without a hold, in no list, is released; the records of the others in use stay. -/
theorem Tables.release {b : BufferId} (h : Tables (b :: X) s) (inUse : (s.buffer b).state.inUse = true) (unheld : (s.buffer b).holds = 0)
    (unlisted : ∀ st, s.listed st b = false) :
    Tables X (release b s) ∧ ∀ c, c ≠ b → (s.buffer c).state ≠ .free → (release b s).buffer c = s.buffer c := by
  have fits := h.fits b
  have sub (c : BufferId) (hc : c ≠ b) (hx : c ∈ b :: X) : c ∈ X := (List.mem_cons.mp hx).resolve_left hc
  obtain ⟨k, pool⟩ : ∃ k, (s.buffer b).pool = some k := Option.ne_none_iff_exists'.mp fun none => by
    rw [fits.pool.mp none] at inUse
    cases inUse
  have unfree : b ∉ (s.pool k).free := fun hb => by
    rw [((fits.free k).mp hb).1] at inUse
    cases inUse
  have only (j : PoolId) (hj : (s.buffer b).pool = some j) : j = k := Option.some.inj (hj.symm.trans pool)
  cases retiring : (s.buffer b).retiring with
  | true =>
    rw [release_of_retiring inUse pool retiring]
    have counted : 0 < (s.pool k).registered := by
      rw [h.registered]
      exact List.countP_pos_iff.mpr ⟨b, mem_allBuffers b, by simp [pool]⟩
    have vacated := h.move b k (f := Buffer.unregistered) (g := fun q => { q with registered := q.registered - 1 }) unlisted unheld sub
      (Buffer.apart_vacant rfl rfl rfl unheld rfl) only (fun j hj => nomatch hj) ⟨rfl, rfl⟩ (fun hk => nomatch hk) (fun _ _ => Iff.rfl)
      (h.freeOnce k) (iff_of_false unfree fun hb => nomatch hb.1) (by
        rw [if_pos pool, if_neg (show (s.buffer b).unregistered.pool ≠ some k from nofun)]
        dsimp only
        omega)
    refine ⟨vacated.noticeRecycled _ _, fun c hc _ => ?_⟩
    rw [noticeRecycled_buffer, modPool_buffer, modBuffer_buffer_of_ne _ _ _ hc]
  | false =>
    rw [release_of_kept inUse pool retiring]
    have freed := h.move b k (f := fun q => { q with state := .free, stream := none }) (g := fun q => { q with free := q.free ++ [b] }) unlisted
      unheld sub (Buffer.apart_free rfl pool rfl unheld retiring) only only ⟨rfl, rfl⟩ (fits.active k) (fun c hc => by simp [hc])
      (by simpa using (h.freeOnce k).concat unfree) (by simp [pool]) rfl
    obtain ⟨kept, others⟩ := (freed.noticeRecycled b (s.buffer b)).runArbiter k
    refine ⟨kept, fun c hc used => ?_⟩
    have same : (Machine.noticeRecycled b (s.buffer b) ((s.modBuffer b fun q => { q with state := .free, stream := none }).modPool k
        fun q => { q with free := q.free ++ [b] })).buffer c = s.buffer c := by
      rw [noticeRecycled_buffer, modPool_buffer, modBuffer_buffer_of_ne _ _ _ hc]
    rw [others c (by rw [same]; exact used), same]

/-- A buffer in use that no list holds becomes PUBLISHED, and is loose, or HELD. -/
theorem Tables.judged {Y : List BufferId} {b : BufferId} {y : BufferState} (h : Tables X s) (inUse : (s.buffer b).state.inUse = true)
    (unlisted : ∀ st, s.listed st b = false) (sub : ∀ c, c ≠ b → c ∈ X → c ∈ Y)
    (state : y = .published ∧ b ∈ Y ∨ y = .held ∧ (s.buffer b).holds ≠ 0) : Tables Y (s.modBuffer b fun r => { r with state := y }) := by
  have fits := h.fits b
  have own : (s.modBuffer b fun r => { r with state := y }).buffer b = { s.buffer b with state := y } := modBuffer_buffer_same ..
  have used : y.inUse = true := by rcases state with ⟨rfl, _⟩ | ⟨rfl, _⟩ <;> rfl
  have other : y ≠ .free ∧ y ≠ .vacant ∧ y ≠ .filling := by rcases state with ⟨rfl, _⟩ | ⟨rfl, _⟩ <;> decide
  have before : (s.buffer b).state ≠ .free ∧ (s.buffer b).state ≠ .vacant := by
    constructor <;> intro hs <;> rw [hs] at inUse <;> cases inUse
  refine h.modBuffer b rfl sub ⟨fun k => ?_, ?_, fun k => ?_, ?_, fun st => ?_, fun _ => ?_, fun st hl => ?_, fun hb st hp => ?_, fun st => ?_,
    ?_, fun st c hc => ?_, fun _ hy => ?_, fun _ st hf => ?_, fun st e he hb _ => ?_⟩
  all_goals simp only [own] at *
  · exact iff_of_false (fun hb => before.1 ((fits.free k).mp hb).1) fun hb => other.1 hb.1
  · exact iff_of_false (fun hb => before.2 (fits.pool.mp hb)) other.2.1
  · exact fits.active k
  · exact iff_of_true (fits.bound.mpr inUse) used
  · exact fits.named st
  · exact used
  · exact absurd (show s.listed st b = true from hl) (by simp [unlisted])
  · rcases state with ⟨_, loose⟩ | ⟨rfl, _⟩
    · exact absurd loose hb
    · cases hp
  · exact fits.holds st
  · exact fits.unbound
  · obtain ⟨bound, _, occupied⟩ := fits.current st c hc
    exact ⟨bound, state.imp And.left And.left, occupied⟩
  · rcases state with ⟨rfl, _⟩ | ⟨_, held⟩
    · cases hy
    · exact held
  · exact absurd hf other.2.2
  · have : s.listed st b = true := listed_iff.mpr (hb ▸ List.mem_map_of_mem he)
    simp [unlisted] at this

/-- A buffer whose entry has left the list is judged; the records of the others in use stay. -/
theorem Tables.unlist {b : BufferId} (h : Tables (b :: X) s) (published : (s.buffer b).state = .published)
    (unlisted : ∀ st, s.listed st b = false) :
    Tables X (unlist b s) ∧ ∀ c, c ≠ b → (s.buffer c).state ≠ .free → (unlist b s).buffer c = s.buffer c := by
  by_cases unheld : (s.buffer b).holds = 0
  · rw [unlist_of_unheld published unheld]
    exact h.release (by rw [published]; rfl) unheld unlisted
  · rw [unlist_of_held published unheld]
    exact ⟨h.judged (by rw [published]; rfl) unlisted (fun c hc hx => (List.mem_cons.mp hx).resolve_left hc) (.inr ⟨rfl, unheld⟩),
      fun c hc _ => modBuffer_buffer_of_ne _ _ _ hc⟩

/-! ### Entries leave a list -/

/-- The streams' lists stay as a buffer is judged. -/
theorem unlist_listed (b : BufferId) (s : State) (st : StreamId) (c : BufferId) : (unlist b s).listed st c = s.listed st c := by
  unfold State.listed
  rw [((follows_unlist b s).streams st).list]

theorem Tables.unlistAll {bs : List BufferId} (h : Tables (bs ++ X) s) (once : bs.Nodup)
    (loose : ∀ b ∈ bs, (s.buffer b).state = .published ∧ ∀ st, s.listed st b = false) : Tables X (unlistAll bs s) := by
  induction bs generalizing s with
  | nil => exact h
  | cons b bs ih =>
    obtain ⟨fresh, once⟩ := List.nodup_cons.mp once
    obtain ⟨published, unlisted⟩ := loose b List.mem_cons_self
    obtain ⟨first, others⟩ := Tables.unlist h published unlisted
    refine ih first once fun c hc => ?_
    rw [others c (fun hcb => fresh (hcb ▸ hc)) (by rw [(loose c (List.mem_cons_of_mem b hc)).1]; nofun)]
    simp only [unlist_listed]
    exact loose c (List.mem_cons_of_mem b hc)

/-- A buffer whose entry is among those removed is PUBLISHED, and stands in no list thereafter. -/
theorem Tables.removed (h : Tables X s) {st : StreamId} {bs : List BufferId} {b : BufferId} (hb : b ∈ bs)
    (listed : b ∈ (s.stream st).list.map Entry.buffer)
    (lists : ∀ u, (t.stream u).list = if u = st then Machine.without (s.stream st).list bs else (s.stream u).list) :
    (s.buffer b).state = .published ∧ ∀ u, t.listed u b = false := by
  obtain ⟨published, bound⟩ := (h.fits b).listed st (listed_iff.mpr listed)
  refine ⟨published, fun u => by_contra fun hl => ?_⟩
  rw [Bool.not_eq_false, listed_iff, lists] at hl
  split at hl
  next =>
    obtain ⟨e, he, rfl⟩ := List.mem_map.mp hl
    simpa [hb] using (List.mem_filter.mp he).2
  next hu =>
    have := ((h.fits b).listed u (listed_iff.mpr hl)).2
    exact hu (Option.some.inj (this.symm.trans bound))

/-- Entries of a stream are removed, each once. -/
theorem Tables.removeEntries (h : Tables X s) (st : StreamId) {bs : List BufferId} (once : bs.Nodup)
    (sub : bs ⊆ (s.stream st).list.map Entry.buffer) : Tables X (removeEntries st bs s) := by
  refine (h.without st bs).unlistAll once fun b hb => h.removed hb (sub hb) fun u => ?_
  rw [modStream_stream]
  split <;> rfl

theorem Tables.settle (h : Tables X s) (st : StreamId) : Tables X (settle st s) :=
  h.removeEntries st ((h.listedOnce st).sublist (settled_sublist _)) (settled_sublist _).subset

theorem Tables.chose (h : Tables X s) : Tables X (chosen s) := h.of_ports rfl rfl rfl rfl

theorem Tables.removeUnsignalled (h : Tables X s) (st : StreamId) : Tables X (removeUnsignalled st s) := by
  have perm := someOrder_perm s (s.stream st).unsignalled
  have sub : (s.stream st).unsignalled.Sublist ((s.stream st).list.map Entry.buffer) := List.filter_sublist.map _
  exact h.chose.removeEntries st (perm.nodup_iff.mpr ((h.listedOnce st).sublist sub)) fun b hb => sub.subset (perm.mem_iff.mp hb)

/-! ### FILLING buffers are released -/

theorem Tables.releaseAll {bs : List BufferId} (h : Tables (bs ++ X) s) (once : bs.Nodup)
    (filling : ∀ b ∈ bs, (s.buffer b).state = .filling) : Tables X (releaseAll bs s) := by
  induction bs generalizing s with
  | nil => exact h
  | cons b bs ih =>
    obtain ⟨fresh, once⟩ := List.nodup_cons.mp once
    have state := filling b List.mem_cons_self
    have fits := h.fits b
    obtain ⟨first, others⟩ := Tables.release h (by rw [state]; rfl) (fits.holds_eq_zero (by simp [state]) (by simp [state]))
      (fits.not_listed (by simp [state]))
    refine ih first once fun c hc => ?_
    have filled := filling c (List.mem_cons_of_mem b hc)
    rw [others c (fun hcb => fresh (hcb ▸ hc)) (by rw [filled]; nofun)]
    exact filled

/-- The producer of a stream without a parked ACQUIRE goes: the stream's FILLING buffers are loose. -/
theorem Tables.unproduced (h : Tables X s) (st : StreamId) (unparked : (s.stream st).parked = none) :
    Tables (s.fillings st ++ X) (s.modStream st fun x => { x with producer := none }) := by
  have stream (u : StreamId) : (s.modStream st fun x => { x with producer := none }).stream u =
      { s.stream u with producer := if u = st then none else (s.stream u).producer } := by
    rw [modStream_stream]
    split
    next hu => rw [hu]
    next => rfl
  have buffer (b : BufferId) : (s.modStream st fun x => { x with producer := none }).buffer b = s.buffer b := rfl
  have pool (k : PoolId) : (s.modStream st fun x => { x with producer := none }).pool k = s.pool k := rfl
  have timer (i : TimerId) : (s.modStream st fun x => { x with producer := none }).timer i = s.timer i := rfl
  generalize s.modStream st (fun x => { x with producer := none }) = t at stream buffer pool timer ⊢
  have slot (u : StreamId) (c : SlotId) : (t.stream u).slot c = (s.stream u).slot c := by rw [stream]; rfl
  have current (u : StreamId) (c : SlotId) : ((t.stream u).slot c).current = ((s.stream u).slot c).current := by rw [slot]
  refine h.rehold (fun b => by rw [buffer]) pool (fun u => ?_) (fun i => by rw [timer]; exact h.timers i) (fun u hu => ?_) (fun b u hu => ?_)
    (fun b hb => by rw [buffer]; exact (h.fits b).unbound hb) (fun b u c hc => ?_) (fun b hb state => ?_) (fun u e he hu => ?_)
    (List.subset_append_right _ X)
  · rw [stream]
    refine ⟨rfl, Iff.rfl, rfl, rfl, fun roles => ⟨fun c p occupied port produced => ?_, roles.once⟩⟩
    dsimp only at produced
    split_ifs at produced
    exact roles.producer c p occupied port produced
  · rw [stream]
    by_cases hust : u = st
    · refine .inr ⟨by rw [hust, unparked]; rfl, fun b filling bound => List.mem_append_left _ (mem_fillings.mpr ⟨filling, ?_⟩)⟩
      rw [← hust]
      exact bound
    · exact .inl (by simpa [hust] using hu)
  · rw [buffer, claims_congr (current u)]
    exact (h.fits b).holds u hu
  · rw [shows_congr (current u)] at hc
    rw [slot]
    exact (h.fits b).current u c hc
  · rw [buffer]
    exact (h.fits b).held (fun hx => hb (List.mem_append_right _ hx)) state
  · rw [stream] at he
    rw [buffer]
    exact (h.fits e.buffer).unsignalled u e he rfl hu

/-- The producer goes, and the FILLING buffers are released. -/
theorem Tables.releaseFillings (h : Tables X s) (st : StreamId) (unparked : (s.stream st).parked = none) :
    Tables X (releaseFillings st (s.modStream st fun x => { x with producer := none })) := by
  have perm := someOrder_perm (s.modStream st fun x => { x with producer := none }) (s.fillings st)
  refine Tables.releaseAll ((h.unproduced st unparked).chose.mono fun b hb => ?_) (perm.nodup_iff.mpr (fillings_nodup s st)) fun b hb =>
    (mem_fillings.mp (perm.mem_iff.mp hb)).1
  rw [List.mem_append] at hb ⊢
  exact hb.imp_left perm.mem_iff.mpr

end tables

end Sys2Proof.Machine
end

section
/-!
PROOFS. The tables stay consistent (O60), third part: consumer slots. A change of a stream record that release does not read can be made before
the old hold of a slot is dropped as well as after it, so that the slots and the hold counts change together.
-/

namespace Sys2Proof.Machine

/-! ### Release does not read the change of a list or of a slot -/

/-- The change of a stream record touches nothing that the arbiter and the parked ACQUIREs read. -/
structure Inert (f : Stream → Stream) : Prop where
  producer : ∀ x, (f x).producer = x.producer
  pool : ∀ x, (f x).pool = x.pool
  quota : ∀ x, (f x).quota = x.quota
  reserve : ∀ x, (f x).reserve = x.reserve
  parked : ∀ x, (f x).parked = x.parked
  unpark : ∀ x : Stream, f { x with parked := none } = { f x with parked := none }

section inert
variable {f : Stream → Stream} (hf : Inert f) (st : StreamId)
include hf

theorem Inert.stream (s : State) (u : StreamId) : ((s.modStream st f).stream u).producer = (s.stream u).producer ∧
    ((s.modStream st f).stream u).pool = (s.stream u).pool ∧ ((s.modStream st f).stream u).quota = (s.stream u).quota ∧
    ((s.modStream st f).stream u).reserve = (s.stream u).reserve ∧ ((s.modStream st f).stream u).parked = (s.stream u).parked := by
  rw [modStream_stream]
  split
  next hu => subst hu; exact ⟨hf.producer _, hf.pool _, hf.quota _, hf.reserve _, hf.parked _⟩
  next => exact ⟨rfl, rfl, rfl, rfl, rfl⟩

theorem Inert.endParked (u : StreamId) (s : State) : endParked u (s.modStream st f) = (endParked u s).modStream st f := by
  obtain ⟨_, pool, _⟩ := hf.stream st s u
  unfold Machine.endParked
  rw [pool]
  refine state_ext (fun _ => rfl) (fun _ => rfl) (fun v => ?_) (fun _ => rfl) (fun _ => rfl) rfl rfl rfl rfl rfl rfl
  simp only [modStream_stream, modPool_stream]
  by_cases hv : v = u
  · subst hv
    by_cases hst : v = st
    · subst hst; simp [hf.unpark]
    · simp [hst]
  · by_cases hst : v = st
    · subst hst; simp [hv]
    · simp [hv, hst]

theorem Inert.completeParked (u : StreamId) (reply : Reply) (s : State) :
    completeParked u reply (s.modStream st f) = (completeParked u reply s).modStream st f := by
  obtain ⟨producer, _, _, _, parked⟩ := hf.stream st s u
  unfold Machine.completeParked
  rw [producer, parked, hf.endParked]
  split <;> rfl

theorem Inert.chooseWaiter (queue : List StreamId) (s : State) : chooseWaiter queue (s.modStream st f) = chooseWaiter queue s := by
  have quota : belowQuota (s.modStream st f) = belowQuota s := by
    funext u
    obtain ⟨_, _, quota, _⟩ := hf.stream st s u
    unfold belowQuota
    rw [quota, modStream_outstanding]
  have reserve : belowReserve (s.modStream st f) = belowReserve s := by
    funext u
    obtain ⟨_, _, _, reserve, _⟩ := hf.stream st s u
    unfold belowReserve
    rw [reserve, modStream_outstanding]
  unfold Machine.chooseWaiter
  rw [quota, reserve]

theorem Inert.arbiterLoop (k : PoolId) (n : Nat) (s : State) : arbiterLoop k n (s.modStream st f) = (arbiterLoop k n s).modStream st f := by
  induction n generalizing s with
  | zero => rfl
  | succ n ih =>
    unfold Machine.arbiterLoop
    rw [modStream_pool, hf.chooseWaiter]
    split
    next b _ u _ _ =>
      have granted : arbiterGrant k u b (s.modStream st f) = (arbiterGrant k u b s).modStream st f :=
        hf.completeParked st u _ (grant k u b s)
      rw [granted, ih]
    next => rfl

theorem Inert.runArbiter (k : PoolId) (s : State) : runArbiter k (s.modStream st f) = (runArbiter k s).modStream st f :=
  hf.arbiterLoop st k _ s

theorem Inert.noticeRecycled (b : BufferId) (r : Buffer) (s : State) :
    noticeRecycled b r (s.modStream st f) = (noticeRecycled b r s).modStream st f := by
  unfold Machine.noticeRecycled
  split
  next u _ =>
    rw [(hf.stream st s u).1]
    cases (s.stream u).producer <;> rfl
  next => rfl

theorem Inert.release (b : BufferId) (s : State) : release b (s.modStream st f) = (release b s).modStream st f := by
  unfold Machine.release
  dsimp only
  rw [modStream_buffer]
  split
  next k _ _ =>
    split
    · exact hf.noticeRecycled st b _ ((s.modBuffer b Buffer.unregistered).modPool k fun q => { q with registered := q.registered - 1 })
    · have recycled := hf.noticeRecycled st b (s.buffer b) ((s.modBuffer b fun q => { q with state := .free, stream := none }).modPool k
        fun q => { q with free := q.free ++ [b] })
      exact (congrArg (Machine.runArbiter k) recycled).trans (hf.runArbiter st k _)
  next => rfl

theorem Inert.dropHold (b : BufferId) (s : State) : dropHold b (s.modStream st f) = (dropHold b s).modStream st f := by
  unfold Machine.dropHold
  simp only [modBuffer_buffer_same, modStream_buffer]
  split
  · exact hf.release st b (s.modBuffer b fun r => { r with holds := r.holds - 1 })
  · rfl

theorem Inert.dropOldHold (old : Option BufferId) (s : State) :
    dropOldHold old (s.modStream st f) = (dropOldHold old s).modStream st f := by
  cases old with
  | none => rfl
  | some b => exact hf.dropHold st b s

end inert

/-! ### A slot shows another buffer -/

section tables
variable {s t u v : State} {st : StreamId} {c : SlotId}

/-- Slot `c` of stream `st` shows another buffer in `u`, which has one hold more; the hold of the one that it showed is still to be dropped. -/
structure State.Turns (s u : State) (st : StreamId) (c : SlotId) : Prop where
  buffers : ∀ b, u.buffer b =
    { s.buffer b with holds := (s.buffer b).holds + if ((u.stream st).slot c).current = some b then 1 else 0 }
  pools : ∀ k, u.pool k = s.pool k
  timers : ∀ i, u.timer i = s.timer i
  others : ∀ w, w ≠ st → u.stream w = s.stream w
  steady : (s.stream st).Steady (u.stream st)
  producer : (u.stream st).producer = (s.stream st).producer
  slots : ∀ d, d ≠ c → (u.stream st).slot d = (s.stream st).slot d
  shown : ∀ b, ((u.stream st).slot c).current = some b →
    (s.buffer b).stream = some st ∧ (s.buffer b).state = .published ∧ ((u.stream st).slot c).occupied = true
  unsignalled : ∀ e ∈ (u.stream st).list, e.signalled = false →
    ((u.stream st).slot c).current ≠ some e.buffer ∧ ∃ d ∈ (s.stream st).list, d.buffer = e.buffer ∧ d.signalled = false

/-- The old hold is dropped, and its buffer, which may be HELD, is still to be judged. -/
theorem State.Turns.tables (turn : s.Turns u st c) (h : Tables [] s) (streams : ∀ w, v.stream w = u.stream w)
    (pools : ∀ k, v.pool k = u.pool k) (timers : ∀ i, v.timer i = u.timer i)
    (buffers : ∀ b, v.buffer b =
      { u.buffer b with holds := (u.buffer b).holds - if ((s.stream st).slot c).current = some b then 1 else 0 }) :
    Tables ((s.stream st).slot c).current.toList v := by
  have holds (b : BufferId) : (v.buffer b).holds = (s.buffer b).holds + (if ((u.stream st).slot c).current = some b then 1 else 0) -
      if ((s.stream st).slot c).current = some b then 1 else 0 := by
    rw [buffers, turn.buffers]
  have other {w : StreamId} (hw : w ≠ st) : v.stream w = s.stream w := by rw [streams, turn.others w hw]
  have apart {b : BufferId} {w : StreamId} (hb : (s.buffer b).stream = some w) (hw : w ≠ st) :
      ((u.stream st).slot c).current ≠ some b ∧ ((s.stream st).slot c).current ≠ some b :=
    ⟨fun hs => hw (Option.some.inj (hb.symm.trans (turn.shown b hs).1)),
      fun hs => hw (Option.some.inj (hb.symm.trans ((h.fits b).current st c (shows_iff.mpr hs)).1))⟩
  have claims (b : BufferId) := claims_change (s := s) (t := v) (st := st) c (fun d hd => by rw [streams, turn.slots d hd]) b
  rw [streams] at claims
  refine h.rehold (fun b => by rw [buffers, turn.buffers]) (fun k => by rw [pools, turn.pools]) (fun w => ?_)
    (fun i => by rw [timers, turn.timers]; exact h.timers i) (fun w hw => .inl ?_) (fun b w hb => ?_) (fun b hb => ?_) (fun b w d hd => ?_)
    (fun b hb state => ?_) (fun w e he hu => ?_) (List.nil_subset _)
  · by_cases hw : w = st
    · subst hw; rw [streams]; exact turn.steady
    · rw [other hw]; exact .refl _
  · by_cases hst : w = st
    · subst hst; rw [streams, turn.producer]; exact hw
    · rw [other hst]; exact hw
  · have before := (h.fits b).holds w hb
    rw [holds]
    by_cases hw : w = st
    · subst hw
      have := claims b
      omega
    · obtain ⟨new, old⟩ := apart hb hw
      rw [if_neg new, if_neg old, before, claims_congr (s := s) (t := v) fun d => by rw [other hw]]
      rfl
  · have unshown : ((u.stream st).slot c).current ≠ some b := fun hs => by rw [(turn.shown b hs).1] at hb; cases hb
    rw [holds, (h.fits b).unbound hb, if_neg unshown]
    omega
  · rw [shows_iff] at hd
    by_cases hw : w = st
    · subst hw
      rw [streams] at hd ⊢
      by_cases hdc : d = c
      · subst hdc
        obtain ⟨bound, published, occupied⟩ := turn.shown b hd
        exact ⟨bound, .inl published, occupied⟩
      · rw [turn.slots d hdc] at hd ⊢
        exact (h.fits b).current w d (shows_iff.mpr hd)
    · rw [other hw] at hd ⊢
      exact (h.fits b).current w d (shows_iff.mpr hd)
  · have := (h.fits b).held List.not_mem_nil state
    rw [holds, if_neg (c := ((s.stream st).slot c).current = some b) fun hs => hb (by simp [hs])]
    omega
  · by_cases hw : w = st
    · subst hw
      rw [streams] at he
      obtain ⟨unshown, d, hd, same, hu'⟩ := turn.unsignalled e he hu
      rw [holds, if_neg unshown, ← same, (h.fits d.buffer).unsignalled w d hd rfl hu']
      omega
    · rw [other hw] at he
      obtain ⟨_, bound⟩ := (h.fits e.buffer).listed w (listed_iff.mpr (List.mem_map_of_mem he))
      rw [holds, if_neg (apart bound hw).1, (h.fits e.buffer).unsignalled w e he rfl hu]
      omega

/-- The old hold of the slot is dropped, and its buffer judged. -/
theorem State.Turns.dropOldHold (turn : s.Turns u st c) (h : Tables [] s) : Tables [] (dropOldHold ((s.stream st).slot c).current u) := by
  cases old : ((s.stream st).slot c).current with
  | none =>
    have := turn.tables h (v := u) (fun _ => rfl) (fun _ => rfl) (fun _ => rfl) fun b => by rw [old]; rfl
    rwa [old] at this
  | some a =>
    have dropped := turn.tables h (v := u.modBuffer a fun r => { r with holds := r.holds - 1 }) (fun _ => rfl) (fun _ => rfl) (fun _ => rfl)
      fun b => by
        rw [modBuffer_buffer, old]
        split
        next hb => subst hb; simp
        next hb => rw [if_neg fun h => hb (Option.some.inj h).symm]; rfl
    rw [old] at dropped
    show Tables [] (dropHold a u)
    unfold dropHold
    dsimp only
    have state : ((u.modBuffer a fun r => { r with holds := r.holds - 1 }).buffer a).state = (s.buffer a).state := by
      rw [modBuffer_buffer_same, turn.buffers]
    have bound : ((u.modBuffer a fun r => { r with holds := r.holds - 1 }).buffer a).stream = (s.buffer a).stream := by
      rw [modBuffer_buffer_same, turn.buffers]
    have showed := (h.fits a).current st c (shows_iff.mpr old)
    split
    next last => exact (dropped.release (by rw [last.1]; rfl) last.2 ((dropped.fits a).not_listed (by rw [last.1]; nofun))).1
    next kept =>
      refine dropped.tighten (fun w published hb => ?_) (fun held none => kept ⟨held, none⟩) fun w filling _ => ?_
      · rw [state] at published
        rw [bound, showed.1] at hb
        cases hb
        have := (h.fits a).published List.not_mem_nil st published showed.1
        rwa [← listed_congr (t := u.modBuffer a fun r => { r with holds := r.holds - 1 }) turn.steady.buffers] at this
      · rw [state] at filling
        rcases showed.2.1 with hs | hs <;> rw [hs] at filling <;> cases filling

theorem Tables.discard {X : List BufferId} (h : Tables X s) (addressed : List (StreamId × SlotId)) :
    Tables X { s with addressed := addressed } := h.of_ports rfl rfl rfl rfl

/-! ### A slot is cleared -/

/-- The slot is cleared before its old hold is dropped as well as after it. -/
theorem clearSlot_eq (s : State) (st : StreamId) (c : SlotId) : clearSlot st c s =
    { dropOldHold ((s.stream st).slot c).current (s.modStream st fun x => x.withoutSlot c) with
      addressed := (dropOldHold ((s.stream st).slot c).current (s.modStream st fun x => x.withoutSlot c)).addressed.filter
        fun a => a != (st, c) } := by
  have inert : Inert fun x => x.modSlot c fun _ => Slot.cleared :=
    ⟨fun _ => rfl, fun _ => rfl, fun _ => rfl, fun _ => rfl, fun _ => rfl, fun _ => rfl⟩
  have both : (s.modStream st fun x => { x with list := x.list.map fun e => { e with passed := e.passed.put c false } }).modStream
      st (fun x => x.modSlot c fun _ => Slot.cleared) = s.modStream st fun x => x.withoutSlot c := modStream_modStream ..
  rw [← both, inert.dropOldHold]
  rfl

theorem withoutSlot_slot (x : Stream) (c d : SlotId) : (x.withoutSlot c).slot d = if d = c then Slot.cleared else x.slot d := get_set ..

theorem Tables.clearSlot (h : Tables [] s) (st : StreamId) (c : SlotId) : Tables [] (clearSlot st c s) := by
  rw [clearSlot_eq]
  have turn : s.Turns (s.modStream st fun x => x.withoutSlot c) st c := by
    have unshown : (((s.stream st).withoutSlot c).slot c).current = none := by
      rw [withoutSlot_slot, if_pos rfl]
      rfl
    refine ⟨fun b => ?_, fun _ => rfl, fun _ => rfl, fun w hw => modStream_stream_of_ne _ _ _ hw, ?_, ?_, fun d hd => ?_, fun b hb => ?_,
      fun e he hu => ⟨?_, ?_⟩⟩
    all_goals simp only [modStream_stream_same, unshown] at *
    · rfl
    · refine ⟨rfl, Iff.rfl, by simp [Stream.withoutSlot], rfl, fun roles => ⟨fun d p occupied port => ?_, fun d e p od oe pd pe => ?_⟩⟩
      · rw [withoutSlot_slot] at occupied port
        split_ifs at occupied port
        · cases occupied
        · exact roles.producer d p occupied port
      · rw [withoutSlot_slot] at od oe pd pe
        split_ifs at od oe pd pe
        · cases od
        · cases od
        · cases oe
        · exact roles.once d e p od oe pd pe
    · rfl
    · rw [withoutSlot_slot, if_neg hd]
    · cases hb
    · nofun
    · obtain ⟨d, hd, rfl⟩ := List.mem_map.mp he
      exact ⟨d, hd, rfl, hu⟩
  exact (turn.dropOldHold h).discard _

/-! ### A boundary at a slot -/

theorem passUpTo_buffers (c : SlotId) (b : BufferId) (l : List Entry) : (passUpTo c b l).map Entry.buffer = l.map Entry.buffer := by
  induction l with
  | nil => rfl
  | cons e l ih =>
    unfold passUpTo
    split
    · rfl
    · simp [ih]

/-- The marks of a flip leave each entry's buffer and whether it is signalled. -/
theorem mem_passUpTo {c : SlotId} {b : BufferId} {l : List Entry} {e : Entry} (he : e ∈ passUpTo c b l) :
    ∃ d ∈ l, d.buffer = e.buffer ∧ d.signalled = e.signalled := by
  induction l with
  | nil => cases he
  | cons x l ih =>
    unfold passUpTo at he
    split at he
    · rcases List.mem_cons.mp he with rfl | he
      · exact ⟨x, List.mem_cons_self, rfl, rfl⟩
      · exact ⟨e, List.mem_cons_of_mem x he, rfl, rfl⟩
    · rcases List.mem_cons.mp he with rfl | he
      · exact ⟨x, List.mem_cons_self, rfl, rfl⟩
      · obtain ⟨d, hd, same⟩ := ih he
        exact ⟨d, List.mem_cons_of_mem x hd, same⟩

/-- A candidate is a signalled entry of the list (R104, R105). -/
theorem candidate_signalled {policy : Policy} {l : List Entry} {e : Entry} (h : candidate policy c l = some e) :
    e ∈ l ∧ e.signalled = true := by
  unfold candidate at h
  split at h
  · have found := List.find?_some h
    exact ⟨List.mem_reverse.mp (List.mem_of_find?_eq_some h), by simp at found; exact found.1⟩
  · split at h
    next d found =>
      split_ifs at h with signalled
      cases h
      exact ⟨List.mem_of_find?_eq_some found, signalled⟩
    next => cases h

@[simp] theorem addHold_stream (b : BufferId) (s : State) (u : StreamId) : (addHold b s).stream u = s.stream u := rfl

/-- The stream record after a flip to entry `e`, but for the settling. -/
def Stream.flipped (x : Stream) (c : SlotId) (e : Entry) : Stream :=
  { x.modSlot c (fun k => { k with current := some e.buffer, currentSequence := some e.sequence, repeats := 0 }) with
    list := passUpTo c e.buffer x.list, flips := x.flips + 1 }

theorem flipped_slot (x : Stream) (c d : SlotId) (e : Entry) : (x.flipped c e).slot d =
    if d = c then { x.slot c with current := some e.buffer, currentSequence := some e.sequence, repeats := 0 } else x.slot d := get_set ..

/-- The slot moves on before its old hold is dropped as well as after it. -/
theorem flip_moved (s : State) (st : StreamId) (c : SlotId) (e : Entry) :
    (dropOldHold ((s.stream st).slot c).current (addHold e.buffer (s.modStream st fun y => { y with list := passUpTo c e.buffer y.list }))).modStream
      st (fun y => { y.modSlot c (fun k =>
        { k with current := some e.buffer, currentSequence := some e.sequence, repeats := 0 }) with flips := y.flips + 1 }) =
    dropOldHold ((s.stream st).slot c).current (addHold e.buffer (s.modStream st fun y => y.flipped c e)) := by
  have inert : Inert fun y => { y.modSlot c (fun k =>
      { k with current := some e.buffer, currentSequence := some e.sequence, repeats := 0 }) with flips := y.flips + 1 } :=
    ⟨fun _ => rfl, fun _ => rfl, fun _ => rfl, fun _ => rfl, fun _ => rfl, fun _ => rfl⟩
  have both : (s.modStream st fun y => { y with list := passUpTo c e.buffer y.list }).modStream st (fun y =>
      { y.modSlot c (fun k => { k with current := some e.buffer, currentSequence := some e.sequence, repeats := 0 }) with
        flips := y.flips + 1 }) = s.modStream st fun y => y.flipped c e := modStream_modStream ..
  rw [← both]
  exact (inert.dropOldHold st _ (addHold e.buffer (s.modStream st fun y => { y with list := passUpTo c e.buffer y.list }))).symm

theorem Tables.flip (h : Tables [] s) {e : Entry} (he : e ∈ (s.stream st).list) (signalled : e.signalled = true)
    (occupied : ((s.stream st).slot c).occupied = true) : Tables [] (flip st c e s) := by
  have turn : s.Turns (addHold e.buffer (s.modStream st fun y => y.flipped c e)) st c := by
    have stream : (addHold e.buffer (s.modStream st fun y => y.flipped c e)).stream st = (s.stream st).flipped c e :=
      (addHold_stream ..).trans (modStream_stream_same ..)
    have shown : (((s.stream st).flipped c e).slot c).current = some e.buffer := by rw [flipped_slot, if_pos rfl]
    obtain ⟨published, bound⟩ := (h.fits e.buffer).listed st (listed_iff.mpr (List.mem_map_of_mem he))
    refine ⟨fun b => ?_, fun _ => rfl, fun _ => rfl, fun w hw => (addHold_stream ..).trans (modStream_stream_of_ne _ _ _ hw), ?_, ?_,
      fun d hd => ?_, fun b hb => ?_, fun d hd hu => ⟨?_, ?_⟩⟩
    all_goals simp only [stream, shown] at *
    · unfold addHold
      rw [modBuffer_buffer]
      split
      next hb => subst hb; simp
      next hb => rw [if_neg fun h => hb (Option.some.inj h).symm]; rfl
    · have slots (d : SlotId) : (((s.stream st).flipped c e).slot d).occupied = ((s.stream st).slot d).occupied ∧
          (((s.stream st).flipped c e).slot d).port = ((s.stream st).slot d).port := by
        rw [flipped_slot]
        split
        next hd => subst hd; exact ⟨rfl, rfl⟩
        next => exact ⟨rfl, rfl⟩
      refine ⟨rfl, Iff.rfl, passUpTo_buffers .., rfl, fun roles => ⟨fun d p od pd => ?_, fun d e' p od oe pd pe => ?_⟩⟩
      · rw [(slots d).1] at od
        rw [(slots d).2] at pd
        exact roles.producer d p od pd
      · rw [(slots _).1] at od oe
        rw [(slots _).2] at pd pe
        exact roles.once d e' p od oe pd pe
    · rfl
    · rw [flipped_slot, if_neg hd]
    · cases hb
      refine ⟨bound, published, ?_⟩
      rw [flipped_slot, if_pos rfl]
      exact occupied
    · obtain ⟨d', hd', same, sig⟩ := mem_passUpTo hd
      intro same'
      have := entry_unique (h.listedOnce st) hd' he (same.trans (Option.some.inj same').symm)
      rw [← sig, this, signalled] at hu
      cases hu
    · obtain ⟨d', hd', same, sig⟩ := mem_passUpTo hd
      exact ⟨d', hd', same, sig.trans hu⟩
  unfold Machine.flip
  dsimp only
  rw [flip_moved]
  exact ((turn.dropOldHold h).queueNoticeTo _ _).settle st

end tables

end Sys2Proof.Machine
end

section
/-!
PROOFS. The tables stay consistent (O60), fourth part: the operations on one stream. Entries join and leave its list, boundaries are taken at its
slots, members leave it, and it is closed, configured and stepped through by a sweep.
-/

namespace Sys2Proof.Machine

section tables
variable {X : List BufferId} {s t : State}

/-! ### Changes of a stream record that the tables do not read -/

theorem Stream.Quiet.of_fields {x x' : Stream} (pool : x'.pool = x.pool) (closed : x'.state = .closed ↔ x.state = .closed)
    (list : x'.list = x.list) (producer : x'.producer = x.producer) (parked : x'.parked = x.parked) (slots : x'.slots = x.slots) :
    x.Quiet x' where
  pool := pool
  closed := closed
  buffers := by rw [list]
  parked := by rw [parked]
  roles roles := by
    have slot (c : SlotId) : x'.slot c = x.slot c := by unfold Stream.slot; rw [slots]
    exact ⟨fun c => by rw [slot, producer]; exact roles.producer c, fun c d => by rw [slot, slot]; exact roles.once c d⟩
  producer hp := by rw [producer]; exact hp
  current c := by unfold Stream.slot; rw [slots]
  occupied c hc := by unfold Stream.slot; rw [slots]; exact hc
  unsignalled e he hu := ⟨e, by rwa [← list], rfl, hu⟩

/-- A slot changes but for whether it is occupied, its port and its buffer. -/
theorem Stream.Quiet.modSlot (x : Stream) (c : SlotId) {f : Slot → Slot}
    (f_eq : ∀ k, (f k).occupied = k.occupied ∧ (f k).port = k.port ∧ (f k).current = k.current) : x.Quiet (x.modSlot c f) := by
  have slot (d : SlotId) : ((x.modSlot c f).slot d).occupied = (x.slot d).occupied ∧ ((x.modSlot c f).slot d).port = (x.slot d).port ∧
      ((x.modSlot c f).slot d).current = (x.slot d).current := by
    rw [modSlot_slot]
    split
    next hd => subst hd; exact f_eq _
    next => exact ⟨rfl, rfl, rfl⟩
  have occupied (d : SlotId) := (slot d).1
  have port (d : SlotId) := (slot d).2.1
  refine ⟨⟨rfl, Iff.rfl, rfl, rfl, fun roles => ⟨fun d => ?_, fun d e => ?_⟩⟩, id, fun d => (slot d).2.2, fun d hd => ?_,
    fun e he hu => ⟨e, he, rfl, hu⟩⟩
  · rw [occupied, port]; exact roles.producer d
  · rw [occupied, occupied, port, port]; exact roles.once d e
  · rw [occupied]; exact hd

/-- The entries of a list change but for their buffers, and none becomes unsignalled. -/
theorem Stream.Quiet.mapList (x : Stream) {f : Entry → Entry}
    (f_eq : ∀ e, (f e).buffer = e.buffer ∧ (e.signalled = true → (f e).signalled = true)) : x.Quiet { x with list := x.list.map f } where
  pool := rfl
  closed := Iff.rfl
  buffers := by simp [f_eq]
  parked := rfl
  roles roles := ⟨roles.producer, roles.once⟩
  producer := id
  current _ := rfl
  occupied _ := id
  unsignalled e' he' hu := by
    obtain ⟨e, he, rfl⟩ := List.mem_map.mp he'
    refine ⟨e, he, ((f_eq e).1).symm, ?_⟩
    by_contra hs
    rw [(f_eq e).2 (by simpa using hs)] at hu
    cases hu

/-- The entries of a stream's list change but for their buffers, and none becomes unsignalled. -/
theorem Tables.mapList (h : Tables X s) (st : StreamId) {f : Entry → Entry}
    (f_eq : ∀ e, (f e).buffer = e.buffer ∧ (e.signalled = true → (f e).signalled = true)) :
    Tables X (s.modStream st fun x => { x with list := x.list.map f }) := h.modStream st (.mapList _ f_eq)

/-- A slot of a stream changes but for whether it is occupied, its port and its buffer. -/
theorem Tables.modSlot (h : Tables X s) (st : StreamId) (c : SlotId) {f : Slot → Slot}
    (f_eq : ∀ k, (f k).occupied = k.occupied ∧ (f k).port = k.port ∧ (f k).current = k.current) :
    Tables X (s.modStream st fun x => x.modSlot c f) := h.modStream st (.modSlot _ c f_eq)

theorem Tables.vacate (h : Tables X s) (st : StreamId) : Tables X (vacate st s) :=
  h.modStream st (.of_fields rfl (by dsimp only; split <;> simp [*]) rfl rfl rfl rfl)

/-! ### The drain completion test -/

theorem Tables.drainTest (h : Tables X s) (st : StreamId) : Tables X (drainTest st s) := by
  rcases drainTest_cases st s with same | ⟨drained, n, completed⟩
  · rw [same]; exact h
  · rw [completed]
    obtain ⟨_, unproduced, _, unbound⟩ := drained_iff.mp drained
    have slot (c : SlotId) : Stream.cleared.slot c = Slot.cleared := cleared_slot c
    refine (h.queueNoticeTo _ n).replace st (fun b => by rw [queueNoticeTo_buffer]; exact unbound b) ?_ rfl (fun c => by rw [slot]; rfl) rfl
      (fun opened => absurd rfl opened) ⟨fun c p hc => ?_, fun c d p hc => ?_⟩
    · rw [queueNoticeTo_stream]
      by_contra hp
      have := (h.parked st (Option.isSome_iff_ne_none.mpr hp)).1
      rw [unproduced] at this
      cases this
    · rw [slot] at hc; cases hc
    · rw [slot] at hc; cases hc

/-! ### PUBLISH, SIGNAL and the signal deadline -/

/-- A FILLING buffer joins its stream's list. -/
theorem Tables.append {st : StreamId} {b : BufferId} (h : Tables X s) (filling : (s.buffer b).state = .filling)
    (bound : (s.buffer b).stream = some st) (signalled : Bool) : Tables X (append st b signalled s) := by
  have unlisted := (h.fits b).not_listed (by rw [filling]; nofun)
  have unheld := (h.fits b).holds_eq_zero (by rw [filling]; nofun) (by rw [filling]; nofun)
  have fresh : b ∉ (s.stream st).list.map Entry.buffer := fun hb => by
    have := listed_iff.mpr hb
    rw [unlisted] at this
    cases this
  have published : Tables (b :: X) (s.modBuffer b fun r => { r with state := .published }) :=
    h.judged (by rw [filling]; rfl) unlisted (fun _ _ => List.mem_cons_of_mem b) (.inl ⟨rfl, List.mem_cons_self⟩)
  have buffers (c : BufferId) (hc : c ≠ b) : (s.modBuffer b fun r => { r with state := .published }).buffer c = s.buffer c :=
    modBuffer_buffer_of_ne _ _ _ hc
  have own : (s.modBuffer b fun r => { r with state := .published }).buffer b = { s.buffer b with state := .published } :=
    modBuffer_buffer_same ..
  have map : ((s.stream st).list ++ [newEntry b signalled (s.stream st)]).map Entry.buffer = (s.stream st).list.map Entry.buffer ++ [b] := by
    simp [newEntry]
  have listed : Tables X ((s.modBuffer b fun r => { r with state := .published }).modStream st
      fun x => { x with list := (s.stream st).list ++ [newEntry b signalled (s.stream st)] }) := by
    refine published.relist st (by rw [map, ← List.concat_eq_append]; exact (h.listedOnce st).concat fresh) (fun c hc => ?_)
      (fun c hx hs hb => ?_) (fun e he hu => ?_) fun c hc hx => ?_
    · rw [map] at hc
      rcases List.mem_append.mp hc with hc | hc
      · rw [buffers c fun hcb => fresh (hcb ▸ hc)]
        exact (h.fits c).listed st (listed_iff.mpr hc)
      · cases List.mem_singleton.mp hc
        rw [own]
        exact ⟨rfl, bound⟩
    · rw [map]
      by_cases hcb : c = b
      · exact List.mem_append_right _ (List.mem_singleton.mpr hcb)
      · rw [buffers c hcb] at hs hb
        exact List.mem_append_left _ (listed_iff.mp ((h.fits c).published hx st hs hb))
    · rcases List.mem_append.mp he with he | he
      · rw [buffers e.buffer fun heb => fresh (heb ▸ List.mem_map_of_mem he)]
        exact (h.fits e.buffer).unsignalled st e he rfl hu
      · cases List.mem_singleton.mp he
        show ((s.modBuffer b _).buffer b).holds = 0
        rw [own]
        exact unheld
    · obtain rfl := (List.mem_cons.mp hc).resolve_right hx
      rw [own]
      exact ⟨rfl, bound⟩
  have counted := listed.modStream st (f := fun x => { x with nextSequence := x.nextSequence + 1, published := x.published + 1 })
    (.of_fields rfl Iff.rfl rfl rfl rfl rfl)
  rw [modStream_modStream] at counted
  exact counted.settle st

/-- The entry of a buffer leaves the list as a count rises, and the buffer is judged; the records of the others in use stay. -/
theorem Tables.unlist_entry {st : StreamId} {e : Entry} (h : Tables X s) (he : e ∈ (s.stream st).list) (dropped expired : Half) {t : State}
    (removed : ∀ Y, Tables Y (s.modStream st fun x =>
      { x with list := Machine.without x.list [e.buffer], dropped := dropped, expired := expired }) → Tables Y t)
    (buffers : ∀ b, t.buffer b = s.buffer b)
    (lists : ∀ u, (t.stream u).list = if u = st then Machine.without (s.stream st).list [e.buffer] else (s.stream u).list) :
    Tables X (Machine.unlist e.buffer t) ∧
      ∀ c, c ≠ e.buffer → (s.buffer c).state ≠ .free → (Machine.unlist e.buffer t).buffer c = s.buffer c := by
  have counted := (h.without st [e.buffer]).modStream st (f := fun x => { x with dropped := dropped, expired := expired })
    (.of_fields rfl Iff.rfl rfl rfl rfl rfl)
  rw [modStream_modStream] at counted
  obtain ⟨published, unlisted⟩ := h.removed List.mem_cons_self (List.mem_map_of_mem he) lists
  obtain ⟨kept, others⟩ := (removed _ counted).unlist (by rw [buffers]; exact published) unlisted
  refine ⟨kept, fun c hc used => ?_⟩
  rw [others c hc (by rw [buffers]; exact used), buffers]

theorem Tables.dropEntry {st : StreamId} {e : Entry} (h : Tables X s) (he : e ∈ (s.stream st).list) :
    Tables X (dropEntry st e s) ∧ ∀ c, c ≠ e.buffer → (s.buffer c).state ≠ .free → (dropEntry st e s).buffer c = s.buffer c := by
  refine h.unlist_entry he ((s.stream st).dropped + 1) (s.stream st).expired (fun Y hY => ?_) (fun b => ?_) fun u => ?_
  · split
    · exact hY
    · exact Tables.queueNoticeTo hY _ _
  · split
    · rfl
    · rw [queueNoticeTo_buffer]; rfl
  · split
    · rw [modStream_stream]; split <;> rfl
    · rw [queueNoticeTo_stream, modStream_stream]; split <;> rfl

theorem Tables.noticeExpired (h : Tables X s) (st : StreamId) (n : Notice) : Tables X (noticeExpired st n s) := by
  unfold Machine.noticeExpired
  dsimp only
  split
  · exact h.queueNoticeTo _ n
  · exact (h.queueNoticeTo _ n).queueNoticeTo _ n

@[simp] theorem noticeExpired_buffer (st : StreamId) (n : Notice) (s : State) (b : BufferId) :
    (noticeExpired st n s).buffer b = s.buffer b := by
  unfold Machine.noticeExpired
  dsimp only
  split
  · rw [queueNoticeTo_buffer]
  · rw [queueNoticeTo_buffer, queueNoticeTo_buffer]

@[simp] theorem noticeExpired_stream (st : StreamId) (n : Notice) (s : State) (u : StreamId) :
    (noticeExpired st n s).stream u = s.stream u := by
  unfold Machine.noticeExpired
  dsimp only
  split
  · rw [queueNoticeTo_stream]
  · rw [queueNoticeTo_stream, queueNoticeTo_stream]

theorem Tables.expireEntry {st : StreamId} {e : Entry} (h : Tables X s) (he : e ∈ (s.stream st).list) : Tables X (expireEntry st e s) := by
  refine (h.unlist_entry he (s.stream st).dropped ((s.stream st).expired + 1) (fun Y hY => hY.noticeExpired st _) (fun b => ?_)
    fun u => ?_).1.settle st
  · rw [noticeExpired_buffer]; rfl
  · rw [noticeExpired_stream, modStream_stream]; split <;> rfl

theorem Tables.publishInto {st : StreamId} {b : BufferId} {signalled : Bool} (h : Tables X s) (filling : (s.buffer b).state = .filling)
    (bound : (s.buffer b).stream = some st) (into : publishInto st b signalled s = some t) : Tables X t := by
  rcases publishInto_cases st s into with ⟨_, rfl⟩ | ⟨e, oldest, rfl⟩
  · exact h.append filling bound signalled
  · have he := List.mem_of_find?_eq_some oldest
    obtain ⟨kept, others⟩ := h.dropEntry he
    have published := ((h.fits e.buffer).listed st (listed_iff.mpr (List.mem_map_of_mem he))).1
    have same := others b (fun hb => by rw [hb, published] at filling; cases filling) (by rw [filling]; nofun)
    exact kept.append (by rw [same]; exact filling) (by rw [same]; exact bound) signalled

theorem Tables.signal (h : Tables X s) (st : StreamId) (b : BufferId) :
    Tables X (Machine.settle st (s.modStream st fun x => { x with list := markSignalled b x.list })) := by
  refine (h.mapList st (f := fun e => if e.buffer = b then { e with signalled := true, deadline := none } else e) fun e => ?_).settle st
  split
  · exact ⟨rfl, fun _ => rfl⟩
  · exact ⟨rfl, id⟩

/-! ### Boundaries -/

theorem Tables.repeatFrame (h : Tables X s) (st : StreamId) (c : SlotId) (b : BufferId) : Tables X (repeatFrame st c b s) := by
  have counted := h.modSlot st c (f := fun k => { k with repeats := min Config.saturation (k.repeats + 1) }) fun _ => ⟨rfl, rfl, rfl⟩
  have stalled := counted.modSlot st c (f := fun j => { j with stalled := true }) fun _ => ⟨rfl, rfl, rfl⟩
  unfold Machine.repeatFrame
  dsimp only
  split
  · exact stalled.queueNoticeTo _ _
  · exact counted

theorem Tables.takeBoundary (h : Tables [] s) (st : StreamId) (c : SlotId) : Tables [] (takeBoundary st c s) := by
  unfold Machine.takeBoundary
  dsimp only
  split
  next occupied =>
    have taken : Tables [] (match candidate (s.stream st).policy c (s.stream st).list with
        | some e => Machine.flip st c e s
        | none =>
          match ((s.stream st).slot c).current with
          | some b => Machine.repeatFrame st c b s
          | none => s) := by
      split
      next e found =>
        obtain ⟨he, signalled⟩ := candidate_signalled found
        exact h.flip he signalled occupied
      next =>
        split
        · exact h.repeatFrame st c _
        · exact h
    cases (s.stream st).state with
    | closed | draining => exact h
    | vacant | live => exact taken
  next => exact h

/-! ### Members join and leave -/

theorem Tables.joinProducer (h : Tables X s) {st : StreamId} {p : Port} (opened : (s.stream st).state ≠ .closed)
    (slotless : (s.stream st).slotOf p = none) :
    Tables X (s.modStream st fun y => { y with producer := some p, state := .live }) :=
  h.modStream st
    { pool := rfl
      closed := iff_of_false nofun opened
      buffers := rfl
      parked := rfl
      roles := fun roles => ⟨fun c q occupied port own => by
        cases own
        exact slotOf_eq_none.mp slotless c ⟨occupied, port⟩, roles.once⟩
      producer := fun _ => rfl
      current := fun _ => rfl
      occupied := fun _ => id
      unsignalled := fun e he hu => ⟨e, he, rfl, hu⟩ }

theorem Tables.joinConsumer (h : Tables X s) {st : StreamId} {p : Port} {c : SlotId} (outside : (s.stream st).isMember p = false)
    (free : (s.stream st).freeSlot = some c) (source : Source) (threshold : Nat) :
    Tables X (s.modStream st fun y => y.modSlot c fun _ => joinedSlot p source threshold) := by
  have vacant : ((s.stream st).slot c).occupied = false := by simpa using List.find?_some free
  have stranger : (s.stream st).producer ≠ some p ∧ ∀ d, ((s.stream st).slot d).occupied = true → ((s.stream st).slot d).port ≠ some p := by
    have := mt isMember_eq_true.mpr (ne_true_of_eq_false outside)
    simpa only [not_or, not_exists, not_and] using this
  have slot (d : SlotId) : (((s.stream st).modSlot c fun _ => joinedSlot p source threshold).slot d) =
      if d = c then joinedSlot p source threshold else (s.stream st).slot d := modSlot_slot ..
  refine h.modStream st ⟨⟨rfl, Iff.rfl, rfl, rfl, fun roles => ⟨fun d q occupied port => ?_, fun d e q od oe pd pe => ?_⟩⟩, id, fun d => ?_,
    fun d hd => ?_, fun e he hu => ⟨e, he, rfl, hu⟩⟩
  · rw [slot] at occupied port
    split_ifs at occupied port
    · cases port
      exact stranger.1
    · exact roles.producer d q occupied port
  · rw [slot] at od oe pd pe
    split_ifs at od oe pd pe with hd he he
    · rw [hd, he]
    · cases pd
      exact absurd pe (stranger.2 e oe)
    · cases pe
      exact absurd pd (stranger.2 d od)
    · exact roles.once d e q od oe pd pe
  · rw [slot]
    split
    next hd =>
      by_contra shown
      obtain ⟨b, hb⟩ := Option.ne_none_iff_exists'.mp fun none => shown none.symm
      have := ((h.fits b).current st d (shows_iff.mpr hb)).2.2
      rw [hd, vacant] at this
      cases this
    next => rfl
  · rw [slot]
    split
    next => rfl
    next => exact hd

theorem Tables.producerLeave (h : Tables X s) (st : StreamId) : Tables X (producerLeave st s) := by
  have unparked : ((Machine.cancelParked st s).stream st).parked = none := by rw [cancelParked_stream, if_pos rfl]
  have released := (h.cancelParked st).releaseFillings st unparked
  unfold Machine.producerLeave
  dsimp only
  refine Tables.drainTest (Tables.vacate (Tables.settle ?_ st) st) st
  split
  · exact released.removeUnsignalled st
  · exact released

theorem Tables.consumerLeave (h : Tables [] s) (st : StreamId) (c : SlotId) : Tables [] (consumerLeave st c s) :=
  ((h.clearSlot st c).settle st).drainTest st

/-! ### CLOSE_STREAM and CONFIGURE_STREAM -/

theorem Tables.closeStream (h : Tables X s) {st : StreamId} (opened : (s.stream st).state ≠ .closed) : Tables X (closeStream st s) := by
  have draining := (h.modStream st (f := fun x => { x with state := .draining })
    (.of_fields rfl (iff_of_false nofun opened) rfl rfl rfl rfl)).cancelParked st
  exact (draining.removeEntries st (draining.listedOnce st) fun _ => id).queueNotices _ _

@[simp] theorem cancelParked_buffer (st : StreamId) (s : State) (b : BufferId) : (cancelParked st s).buffer b = s.buffer b := by
  unfold Machine.cancelParked
  split
  · rw [completeParked_buffer]
  · rfl

theorem pool_active {q : Pool} (h : q.state ≠ .unused) : q.state = .active := by
  cases hq : q.state with
  | unused => exact absurd hq h
  | active => rfl

theorem Tables.configure (h : Tables X s) {p : Port} {st : StreamId} {c : ConfigItems} (passed : configureRefusal p st c s = none) :
    Tables X (configure st c s) := by
  obtain ⟨_, inRange, present, unbound, _⟩ := configureRefusal_eq_none passed
  have fits := inRange_iff.mp inRange
  rw [configure_eq fits]
  have pool : c.poolOf (s.stream st).pool = (c.configured (s.stream st)).pool := by rw [← apply_eq_configured fits]; rfl
  split
  next moved =>
    have empty := outstanding_eq_zero.mp (unbound (.inl (by rw [pool]; exact moved)))
    have stream : (Machine.cancelParked st s).stream st = { s.stream st with parked := none } := by rw [cancelParked_stream, if_pos rfl]
    refine (h.cancelParked st).replace st (fun b => ?_) (by rw [stream]) ?_ (fun d => ?_) (by rw [stream]; rfl) (fun _ => ?_) ?_
    · rw [cancelParked_buffer]; exact empty b
    · rw [stream]
      by_contra some
      obtain ⟨e, he⟩ := List.exists_mem_of_ne_nil _ some
      exact empty e.buffer ((h.fits e.buffer).listed st (listed_iff.mpr (List.mem_map_of_mem he))).2
    · rw [stream]
      by_contra some
      obtain ⟨b, hb⟩ := Option.ne_none_iff_exists'.mp some
      exact empty b ((h.fits b).current st d (shows_iff.mpr hb)).1
    · have named : (c.configured (s.stream st)).pool ∈ c.pool.bind (index? 4) := by
        unfold ConfigItems.configured at moved ⊢
        cases hp : c.pool.bind (index? 4) with
        | none => simp [hp] at moved
        | some k => simp
      rw [(follows_cancelParked st s).poolState, stream]
      exact pool_active fun unused => by
        have := poolMissing_iff.mpr ⟨_, named, unused⟩
        rw [present] at this
        cases this
    · rw [stream]
      exact ⟨(h.roles st).producer, (h.roles st).once⟩
  next kept =>
    have configured : Tables X (s.modStream st c.configured) := h.modStream st (.of_fields (not_not.mp kept) Iff.rfl rfl rfl rfl rfl)
    split
    · exact (configured.runArbiter _).1
    · exact configured

/-! ### The sweep of a port -/

theorem Tables.firstStage (h : Tables X s) (p : Port) (tag : Option Byte) : Tables X (firstStage p tag s) := by
  unfold Machine.firstStage
  generalize hl : allStreams = l
  clear hl
  have lapsing := h.modPort p fun r =>
    { r with state := .lapsing, leaseRemaining := none, responses := [], window := 0, replay := none, notices := [],
             lost := 0, sweep := some { next := .stream 0, detachTag := tag } }
  generalize s.modPort p _ = t at lapsing
  induction l generalizing t with
  | nil => exact lapsing
  | cons u l ih =>
    refine ih (discardParked p t u) ?_
    unfold discardParked
    split
    · exact lapsing.endParked u
    · exact lapsing

theorem Tables.noticeMemberLost (h : Tables X s) (p : Port) (st : StreamId) (role : LostRole) : Tables X (noticeMemberLost p st role s) := by
  have told := h.queueNotices (s.stream st).members (.memberLost st p role (s.port p).session)
  unfold Machine.noticeMemberLost
  dsimp only
  split
  · split
    · exact told
    · exact told.modPort _ _
  · exact told

theorem Tables.producerPart (h : Tables X s) (p : Port) {st : StreamId} (unparked : (s.stream st).parked = none) :
    Tables X (producerPart p st s) := by
  have released := h.releaseFillings st unparked
  unfold Machine.producerPart
  dsimp only
  refine Tables.vacate ?_ st
  split
  · exact released.removeUnsignalled st
  · exact released

theorem Tables.roleParts (h : Tables [] s) {p : Port} {st : StreamId}
    (unparked : (s.stream st).producer = some p → (s.stream st).parked = none) : Tables [] (roleParts p st s) := by
  unfold Machine.roleParts
  dsimp only
  split
  next producer => exact ((h.producerPart p (unparked producer)).settle st).noticeMemberLost p st _
  next =>
    split
    next c _ =>
      refine Tables.noticeMemberLost (Tables.settle ?_ st) p st _
      split
      · exact (h.clearSlot st c).removeUnsignalled st
      · exact h.clearSlot st c
    next =>
      split
      · exact (h.removeUnsignalled st).settle st
      · exact h

theorem Tables.ownerPart (h : Tables X s) (p : Port) (st : StreamId) : Tables X (ownerPart p st s) :=
  Tables.queueNotices (h.modStream st (.of_fields rfl Iff.rfl rfl rfl rfl rfl)) _ _

theorem Tables.streamStep (h : Tables [] s) {p : Port} {st : StreamId}
    (unparked : (s.stream st).producer = some p → (s.stream st).parked = none) : Tables [] (streamStep p st s) := by
  unfold Machine.streamStep
  dsimp only
  split
  · exact h
  · split
    · exact h
    · refine Tables.drainTest ?_ st
      split
      · exact (h.roleParts unparked).ownerPart p st
      · exact h.roleParts unparked

end tables

end Sys2Proof.Machine
end

section
/-!
PROOFS. The tables stay consistent (O60), last part: the requests on pools and buffers, every request, and every step.
-/

namespace Sys2Proof.Machine

section tables
variable {X : List BufferId} {s t : State}

/-! ### Pools -/

/-- A pool that no open stream names has its buffers on its free list, and no stream waits for it. -/
theorem Tables.free_of_unnamed (h : Tables X s) {k : PoolId} (unnamed : ∀ st, (s.stream st).state ≠ .closed → (s.stream st).pool ≠ k)
    {b : BufferId} (pool : (s.buffer b).pool = some k) : b ∈ (s.pool k).free := by
  have fits := h.fits b
  refine (fits.free k).mpr ⟨?_, pool⟩
  have unbound : (s.buffer b).state.inUse = false := by
    by_contra used
    obtain ⟨st, hst⟩ := Option.isSome_iff_exists.mp (fits.bound.mpr (by simpa using used))
    obtain ⟨named, opened⟩ := fits.named st hst
    exact unnamed st opened (Option.some.inj (named.symm.trans pool))
  have registered : (s.buffer b).state ≠ .vacant := fun hv => by
    rw [fits.pool.mpr hv] at pool
    cases pool
  cases hs : (s.buffer b).state <;> simp_all [BufferState.inUse]

/-- A pool that no open stream names is emptied: its FREE records become VACANT. -/
theorem Tables.emptied (h : Tables X s) {k : PoolId} (unnamed : ∀ st, (s.stream st).state ≠ .closed → (s.stream st).pool ≠ k)
    (buffer : ∀ b, t.buffer b = if b ∈ (s.pool k).free then (s.buffer b).unregistered else s.buffer b)
    (others : ∀ j, j ≠ k → t.pool j = s.pool j) (free : (t.pool k).free = []) (registered : (t.pool k).registered = 0)
    (wait : (t.pool k).wait = []) (stream : ∀ st, t.stream st = s.stream st) (timer : ∀ i, t.timer i = s.timer i) : Tables X t := by
  have poolOf (b : BufferId) (j : PoolId) : (t.buffer b).pool = some j ↔ j ≠ k ∧ (s.buffer b).pool = some j := by
    rw [buffer]
    split
    next hb =>
      have := ((h.fits b).free k).mp hb
      exact iff_of_false nofun fun ⟨hj, hp⟩ => hj (Option.some.inj (hp.symm.trans this.2))
    next hb => exact ⟨fun hp => ⟨fun hj => hb (h.free_of_unnamed unnamed (hj ▸ hp)), hp⟩, And.right⟩
  refine ⟨fun b => ?_, fun j => ?_, fun st opened => ?_, fun j => ?_, fun st => ?_, fun j st => ?_, fun j => ?_, fun st => ?_, fun st => ?_,
    fun i => ?_⟩
  · have fits := h.fits b
    have freed (j : PoolId) : b ∈ (t.pool j).free ↔ j ≠ k ∧ b ∈ (s.pool j).free := by
      by_cases hj : j = k
      · subst hj; simp [free]
      · rw [others j hj]; simp [hj]
    have active (j : PoolId) (hj : j ≠ k) (hp : (s.buffer b).pool = some j) : (t.pool j).state = .active := by
      rw [others j hj]
      exact fits.active j hp
    by_cases hb : b ∈ (s.pool k).free
    · obtain ⟨state, pool⟩ := (fits.free k).mp hb
      have own : t.buffer b = (s.buffer b).unregistered := by rw [buffer, if_pos hb]
      have unheld := fits.unbound (fits.unbound_of_unused (by rw [state]; rfl))
      refine Buffer.Apart.fits (s := s) (by rw [own]; exact Buffer.apart_vacant rfl rfl rfl unheld rfl) stream
        (fits.not_listed (by rw [state]; nofun)) (fits.not_shown unheld) (fun j => ?_) fun j hp => ?_
      · rw [freed, own]
        exact iff_of_false (fun ⟨hj, hf⟩ => hj (Option.some.inj (((fits.free j).mp hf).2.symm.trans pool))) fun hs => nomatch hs.1
      · rw [own] at hp; cases hp
    · have apart {j : PoolId} (hp : (s.buffer b).pool = some j) : j ≠ k := fun hj => hb (h.free_of_unnamed unnamed (hj ▸ hp))
      exact fits.congr (by rw [buffer, if_neg hb]) (fun j => by rw [freed]; exact ⟨And.right, fun hf => ⟨apart ((fits.free j).mp hf).2, hf⟩⟩)
        (fun j hp => active j (apart hp) hp) fun st => by rw [stream]
  · by_cases hj : j = k
    · subst hj; rw [free]; exact .nil
    · rw [others j hj]; exact h.freeOnce j
  · rw [stream] at opened ⊢
    rw [others _ (unnamed st opened)]
    exact h.names st opened
  · by_cases hj : j = k
    · subst hj
      rw [registered, eq_comm, List.countP_eq_zero]
      exact fun b _ hb => ((poolOf b j).mp (by simpa using hb)).1 rfl
    · rw [others j hj, h.registered]
      refine List.countP_congr fun b _ => ?_
      rw [beq_iff_eq, beq_iff_eq, poolOf]
      exact ⟨fun hp => ⟨hj, hp⟩, And.right⟩
  · rw [stream]; exact h.listedOnce st
  · rw [stream]
    by_cases hj : j = k
    · subst hj
      rw [wait]
      exact iff_of_false List.not_mem_nil fun ⟨pool, parked⟩ => unnamed st (h.parked st parked).2 pool
    · rw [others j hj]; exact h.wait j st
  · by_cases hj : j = k
    · subst hj; rw [wait]; exact .nil
    · rw [others j hj]; exact h.waitOnce j
  · rw [stream]; exact h.roles st
  · rw [stream]; exact h.parked st
  · rw [timer]; exact h.timers i

theorem Tables.createPool (h : Tables X s) {k : PoolId} (unused : (s.pool k).state = .unused) (p : Port) :
    Tables X (s.modPool k fun _ => { state := .active, owner := some p, free := [], registered := 0, wait := [] }) := by
  have inactive : (s.pool k).state ≠ .active := by rw [unused]; nofun
  refine h.emptied (k := k) (fun st opened hk => inactive (hk ▸ h.names st opened)) (fun b => ?_) (fun j hj => modPool_pool_of_ne _ _ _ hj)
    (by rw [modPool_pool_same]) (by rw [modPool_pool_same]) (by rw [modPool_pool_same]) (fun _ => rfl) fun _ => rfl
  rw [if_neg fun hb => inactive ((h.fits b).active k (((h.fits b).free k).mp hb).2)]
  rfl

theorem Tables.dissolvePool (h : Tables X s) {k : PoolId} (unnamed : s.poolNamed k = false) :
    Tables X ((unregisterAll (s.pool k).free s).modPool k fun q => { q with state := .unused, owner := none, free := [], registered := 0 }) := by
  have unnamed (st : StreamId) (opened : (s.stream st).state ≠ .closed) : (s.stream st).pool ≠ k := fun hk => by
    rw [poolNamed_eq_true.mpr ⟨st, opened, hk⟩] at unnamed
    cases unnamed
  rw [unregisterAll_eq]
  refine h.emptied (k := k) unnamed (fun b => ?_) (fun j hj => ?_) ?_ ?_ ?_ (fun st => ?_) fun i => ?_
  · rw [modPool_buffer, mapBuffers_buffer]
  · rw [modPool_pool_of_ne _ _ _ hj, mapBuffers_pool]
  · rw [modPool_pool_same]
  · rw [modPool_pool_same]
  · rw [modPool_pool_same, mapBuffers_pool]
    refine List.eq_nil_iff_forall_not_mem.mpr fun st hst => ?_
    obtain ⟨pool, parked⟩ := (h.wait k st).mp hst
    exact unnamed st (h.parked st parked).2 pool
  · rw [modPool_stream, mapBuffers_stream]
  · rw [modPool_timer, mapBuffers_timer]

theorem Tables.claimPool (h : Tables X s) (k : PoolId) (owner : Option Port) : Tables X (s.modPool k fun q => { q with owner := owner }) := by
  refine h.congr (fun _ => rfl) (fun j => ?_) (fun _ => rfl) h.timers
  rw [modPool_pool]
  split
  next hj => rw [hj]
  next => rfl

/-! ### Buffers -/

theorem Tables.registerBuffer (h : Tables X s) {k : PoolId} {b : BufferId} (used : (s.pool k).state ≠ .unused)
    (vacant : (s.buffer b).state = .vacant) (handle : Handle) (layout : Half) :
    Tables X (Machine.runArbiter k ((s.modBuffer b fun r =>
      { r with state := .free, pool := some k, handle := handle, layout := layout, stream := none, holds := 0, retiring := false }).modPool k
        fun q => { q with free := q.free ++ [b], registered := q.registered + 1 })) := by
  have fits := h.fits b
  have unpooled : (s.buffer b).pool = none := fits.pool.mpr vacant
  have unfree : b ∉ (s.pool k).free := fun hb => by
    rw [((fits.free k).mp hb).1] at vacant
    cases vacant
  have moved := h.move (Y := X) b k (f := fun r =>
      { r with state := .free, pool := some k, handle := handle, layout := layout, stream := none, holds := 0, retiring := false })
    (g := fun q => { q with free := q.free ++ [b], registered := q.registered + 1 }) (fits.not_listed (by rw [vacant]; nofun))
    (fits.unbound (fits.unbound_of_unused (by rw [vacant]; rfl))) (fun _ _ => id) (Buffer.apart_free (k := k) rfl rfl rfl rfl rfl)
    (fun j hj => by rw [unpooled] at hj; cases hj) (fun j hj => (Option.some.inj hj).symm) ⟨rfl, rfl⟩ (fun _ => pool_active used)
    (fun c hc => by simp [hc]) (by simpa using (h.freeOnce k).concat unfree) (by simp) (by rw [unpooled, if_neg nofun, if_pos rfl])
  exact (moved.runArbiter k).1

theorem Tables.retireFree (h : Tables X s) {b : BufferId} (free : (s.buffer b).state = .free) : Tables X (retireFree b s) := by
  have fits := h.fits b
  obtain ⟨k, pool⟩ : ∃ k, (s.buffer b).pool = some k := Option.ne_none_iff_exists'.mp fun none => by
    rw [fits.pool.mp none] at free
    cases free
  have counted : 0 < (s.pool k).registered := by
    rw [h.registered]
    exact List.countP_pos_iff.mpr ⟨b, mem_allBuffers b, by simp [pool]⟩
  have unheld := fits.unbound (fits.unbound_of_unused (by rw [free]; rfl))
  unfold Machine.retireFree
  rw [pool]
  refine h.move b k (fits.not_listed (by rw [free]; nofun)) unheld (fun _ _ => id) (Buffer.apart_vacant rfl rfl rfl unheld rfl)
    (fun j hj => Option.some.inj (hj.symm.trans pool)) (fun j hj => nomatch hj) ⟨rfl, rfl⟩ (fun hk => nomatch hk)
    (fun c hc => List.mem_erase_of_ne hc) ((h.freeOnce k).erase b) (iff_of_false ?_ fun hb => nomatch hb.1) ?_
  · exact fun hb => ((h.freeOnce k).mem_erase_iff.mp hb).1 rfl
  · rw [if_pos pool, if_neg (show (s.buffer b).unregistered.pool ≠ some k from nofun)]
    dsimp only
    omega

theorem Tables.retire (h : Tables X s) {b : BufferId} (registered : (s.buffer b).state ≠ .vacant) (unfree : (s.buffer b).state ≠ .free) :
    Tables X (s.modBuffer b fun r => { r with retiring := true }) := by
  have fits := h.fits b
  have own : (s.modBuffer b fun r => { r with retiring := true }).buffer b = { s.buffer b with retiring := true } := modBuffer_buffer_same ..
  have used : (s.buffer b).state.inUse = true := by
    cases hs : (s.buffer b).state <;> simp_all [BufferState.inUse]
  refine h.modBuffer b rfl (fun _ _ => id) ?_
  constructor
  all_goals simp only [own]
  · exact fits.free
  · exact fits.pool
  · exact fits.active
  · exact fits.bound
  · exact fits.named
  · exact fun _ => used
  · exact fits.listed
  · exact fits.published
  · exact fits.holds
  · exact fits.unbound
  · exact fits.current
  · exact fits.held
  · exact fits.filling
  · exact fits.unsignalled

theorem Tables.releaseFilling (h : Tables X s) {b : BufferId} (filling : (s.buffer b).state = .filling) : Tables X (Machine.release b s) :=
  ((h.mono (List.subset_cons_self b X)).release (by rw [filling]; rfl) ((h.fits b).holds_eq_zero (by rw [filling]; nofun) (by rw [filling]; nofun))
    ((h.fits b).not_listed (by rw [filling]; nofun))).1

theorem Tables.retune (h : Tables X s) (st : StreamId) (c : SlotId) (source : Source) (threshold : Nat) :
    Tables X (retune st c source threshold s) := by
  have tuned := h.modSlot st c (f := fun k => { k with source := source, threshold := threshold }) fun _ => ⟨rfl, rfl, rfl⟩
  unfold Machine.retune
  dsimp only
  split
  · exact tuned.discard _
  · exact tuned

/-! ### ACQUIRE, OPEN_STREAM and timers -/

theorem Tables.park (h : Tables X s) {st : StreamId} (opened : (s.stream st).state ≠ .closed)
    (produced : (s.stream st).producer.isSome = true) (unparked : (s.stream st).parked = none) (p : Port) (tag : Byte) (wait : Nat) :
    Tables X (park p tag st wait s) := by
  have outside : st ∉ (s.pool (s.stream st).pool).wait := fun hst => by
    have := ((h.wait _ st).mp hst).2
    rw [unparked] at this
    cases this
  have parked (x : Parked) : Tables X ((s.modStream st fun y => { y with parked := some x }).modPool (s.stream st).pool
      fun k => { k with wait := k.wait ++ [st] }) := by
    refine h.rewait (fun _ => rfl) (fun k => ?_) (fun u => ?_) (fun k u => ?_) (fun k => ?_) (fun u hu => ?_) h.timers
    all_goals simp only [modPool_pool, modPool_stream, modStream_stream, modStream_pool] at *
    · split
      next hk => rw [hk]
      next => rfl
    · split
      next hu => rw [hu]
      next => rfl
    · by_cases hu : u = st
      · subst hu
        by_cases hk : k = (s.stream u).pool
        · subst hk; simp
        · refine iff_of_false (fun hw => ?_) fun hp => ?_
          · rw [if_neg hk] at hw
            exact hk ((h.wait k u).mp hw).1.symm
          · rw [if_pos rfl] at hp
            exact hk hp.1.symm
      · by_cases hk : k = (s.stream st).pool
        · subst hk; simp [hu, h.wait]
        · simp [hu, hk, h.wait]
    · split
      · simpa using (h.waitOnce (s.stream st).pool).concat outside
      · exact h.waitOnce k
    · by_cases hust : u = st
      · subst hust; exact ⟨produced, opened⟩
      · rw [if_neg hust] at hu
        exact h.parked u hu
  exact (parked _).modPort p _

/-- A stream is opened into a pool that is ACTIVE. -/
theorem openedStream_pool {payload : List Byte} {c : ConfigItems} (items : openItems? payload = some c)
    (inRange : c.inRange Stream.cleared.quota Stream.cleared.reserve = true) (present : poolMissing c s = false) (p : Port) :
    (s.pool (openedStream p c).pool).state = .active := by
  obtain ⟨b, hb⟩ : ∃ b, c.pool = some b := by
    unfold openItems? at items
    split at items
    · cases items; exact ⟨_, rfl⟩
    · cases items
  have four : b.toNat < 4 := Nat.lt_succ_of_le ((inRange_iff.mp inRange).1 b hb)
  have pool : (openedStream p c).pool = ⟨b.toNat, four⟩ := by
    show c.poolOf _ = _
    unfold ConfigItems.poolOf
    rw [hb]
    dsimp only
    rw [index?_of_lt four]
    rfl
  refine pool_active fun unused => ?_
  have : poolMissing c s = true := poolMissing_iff.mpr ⟨_, by rw [hb]; exact index?_of_lt four, by rw [← pool]; exact unused⟩
  rw [present] at this
  cases this

theorem Tables.openStream (h : Tables X s) {st : StreamId} {c : ConfigItems} (closed : (s.stream st).state = .closed) {p : Port}
    (active : (s.pool (openedStream p c).pool).state = .active) : Tables X (s.modStream st fun _ => openedStream p c) := by
  have slot (d : SlotId) : (openedStream p c).slot d = Slot.cleared := cleared_slot d
  refine h.replace st (fun b hb => ((h.fits b).named st hb).2 closed) ?_ rfl (fun d => by rw [slot]; rfl) rfl (fun _ => active)
    ⟨fun d q hd => ?_, fun d e q hd => ?_⟩
  · by_contra hp
    exact (h.parked st (Option.isSome_iff_ne_none.mpr hp)).2 closed
  · rw [slot] at hd; cases hd
  · rw [slot] at hd; cases hd

theorem Tables.modTimer (h : Tables X s) (i : TimerId) {f : Timer → Timer} (kept : (f (s.timer i)).Kept) : Tables X (s.modTimer i f) := by
  refine h.congr (fun _ => rfl) (fun _ => rfl) (fun _ => rfl) fun j => ?_
  rw [modTimer_timer]
  split
  · exact kept
  · exact h.timers j

/-! ### Every request -/

theorem tables_requestBody (h : Tables [] s) (name : RequestName) (p : Port) (tag : Byte) (payload : List Byte) :
    Tables [] (requestBody name p tag payload s).1 := by
  have left {q : Served} (hq : q.Leaves s) : Tables [] q.1 := by
    obtain ⟨reply, rfl⟩ := hq
    exact h
  cases name <;> dsimp only [requestBody]
  case attach =>
    obtain hq | ⟨lease, data, _, _, hq⟩ := attachRequest_cases p payload s
    · exact left hq
    · rw [hq, okWith_fst]; exact h.modPort p _
  case detach =>
    obtain hq | hq := detachRequest_cases p tag payload s
    · exact left hq
    · rw [hq]; dsimp only; exact h.firstStage p _
  case renew => exact left (renewRequest_cases p payload s)
  case setNoticeMask =>
    obtain hq | ⟨mask, data, _, hq⟩ := setNoticeMaskRequest_cases p payload s
    · exact left hq
    · rw [hq, okWith_fst]; exact h.modPort p _
  case createPool =>
    obtain hq | ⟨k, data, unused, hq⟩ := createPoolRequest_cases p payload s
    · exact left hq
    · rw [hq, okWith_fst]; exact h.createPool unused p
  case dissolvePool =>
    obtain hq | ⟨k, unnamed, hq⟩ := dissolvePoolRequest_cases p payload s
    · exact left hq
    · rw [hq, okWith_fst]; exact h.dissolvePool unnamed
  case claimPool =>
    obtain hq | ⟨k, hq⟩ := claimPoolRequest_cases p payload s
    · exact left hq
    · rw [hq, okWith_fst]; exact h.claimPool k _
  case registerBuffer =>
    obtain hq | ⟨k, b, handle, layout, data, used, vacant, hq⟩ := registerBufferRequest_cases p payload s
    · exact left hq
    · rw [hq, okWith_fst]; exact h.registerBuffer used vacant handle layout
  case retireBuffer =>
    obtain hq | ⟨b, registered, ⟨free, hq⟩ | ⟨unfree, hq⟩⟩ := retireBufferRequest_cases p payload s
    · exact left hq
    · rw [hq, okWith_fst]; exact h.retireFree free
    · rw [hq, okWith_fst]; exact h.retire registered unfree
  case openStream =>
    obtain hq | ⟨c, st, data, items, inRange, present, closed, hq⟩ := openStreamRequest_cases p payload s
    · exact left hq
    · rw [hq, okWith_fst]; exact h.openStream closed (openedStream_pool items inRange present p)
  case configureStream =>
    obtain hq | ⟨st, c, _, passed, hq⟩ := configureStreamRequest_cases p payload s
    · exact left hq
    · rw [hq, okWith_fst]; exact h.configure passed
  case closeStream =>
    obtain hq | ⟨st, data, opened, _, hq⟩ := closeStreamRequest_cases p payload s
    · exact left hq
    · rw [hq, okWith_fst]; exact (h.closeStream opened).drainTest st
  case claimStream =>
    obtain hq | ⟨st, _, hq⟩ := claimStreamRequest_cases p payload s
    · exact left hq
    · rw [hq, okWith_fst]; exact h.modStream st (.of_fields rfl Iff.rfl rfl rfl rfl rfl)
  case joinProducer =>
    obtain hq | ⟨st, data, opened, _, _, slotless, hq⟩ := joinProducerRequest_cases p payload s
    · exact left hq
    · rw [hq, okWith_fst]; exact h.joinProducer opened slotless
  case leave =>
    obtain hq | ⟨st, _, ⟨_, hq⟩ | ⟨c, _, hq⟩⟩ := leaveRequest_cases p payload s
    · exact left hq
    · rw [hq, okWith_fst]; exact h.producerLeave st
    · rw [hq, okWith_fst]; exact h.consumerLeave st c
  case acquire =>
    obtain hq | ⟨st, opened, _, produced, unparked, ⟨b, rest, data, free, hq⟩ | ⟨wait, hq⟩⟩ := acquireRequest_cases p tag payload s
    · exact left hq
    · rw [hq, okWith_fst]
      exact h.grant (by rw [free]; exact List.mem_cons_self) rfl opened (by rw [produced]; rfl)
    · rw [hq]; dsimp only; exact h.park opened (by rw [produced]; rfl) unparked p tag wait
  case abandon =>
    obtain hq | ⟨b, st, filling, _, _, hq⟩ := abandonRequest_cases p payload s
    · exact left hq
    · rw [hq, okWith_fst]; exact (h.releaseFilling filling).drainTest st
  case publish =>
    obtain hq | ⟨b, st, filling, bound, _, hq | ⟨_, signalled, t, data, into, hq⟩⟩ := publishRequest_cases p payload s
    · exact left hq
    · rw [hq, refuse_fst]; exact (h.releaseFilling filling).drainTest st
    · rw [hq, okWith_fst]; exact h.publishInto filling bound into
  case signal =>
    obtain hq | ⟨b, st, e, data, _, _, _, _, hq⟩ := signalRequest_cases p payload s
    · exact left hq
    · rw [hq, okWith_fst]; exact h.signal st b
  case joinConsumer =>
    obtain hq | ⟨st, c, source, threshold, data, _, outside, free, hq⟩ := joinConsumerRequest_cases p payload s
    · exact left hq
    · rw [hq, okWith_fst]; exact h.joinConsumer outside free source threshold
  case retuneConsumer =>
    obtain hq | ⟨st, c, source, threshold, _, hq⟩ := retuneConsumerRequest_cases p payload s
    · exact left hq
    · rw [hq, okWith_fst]; exact h.retune st c source threshold
  case ackStall =>
    obtain hq | ⟨st, c, data, _, hq⟩ := ackStallRequest_cases p payload s
    · exact left hq
    · rw [hq, okWith_fst]; exact h.modSlot st c fun _ => ⟨rfl, rfl, rfl⟩
  case startTimer =>
    obtain hq | ⟨i, period, nonzero, hq⟩ := startTimerRequest_cases p payload s
    · exact left hq
    · rw [hq, okWith_fst]; exact h.modTimer i ⟨iff_of_true rfl rfl, nonzero⟩
  case stopTimer =>
    obtain hq | ⟨i, hq⟩ := stopTimerRequest_cases p payload s
    · exact left hq
    · rw [hq, okWith_fst]; exact h.modTimer i ⟨iff_of_false nofun nofun, (h.timers i).2⟩
  case claimTimer =>
    obtain hq | ⟨i, hq⟩ := claimTimerRequest_cases p payload s
    · exact left hq
    · rw [hq, okWith_fst]; exact h.modTimer i (h.timers i)
  case queryDevice =>
    obtain hq | ⟨data, hq⟩ := queryDeviceRequest_cases p payload s
    · exact left hq
    · rw [hq, okWith_fst]; exact h.chose
  case queryPort => exact left (queryPortRequest_cases payload s)
  case queryPool => exact left (queryPoolRequest_cases payload s)
  case queryStream =>
    obtain hq | ⟨data, hq⟩ := queryStreamRequest_cases payload s
    · exact left hq
    · rw [hq, okWith_fst]; exact h.chose
  case queryBuffer => exact left (queryBufferRequest_cases payload s)

/-! ### Every step -/

theorem Tables.passTime (h : Tables X s) : Tables X (passTime s) := by
  refine h.quiet (passTime_buffer s) (passTime_pool s) (fun st => ?_) fun i => ?_
  · rw [passTime_stream]
    have listed := Stream.Quiet.mapList (s.stream st) (f := Entry.tick) fun _ => ⟨rfl, id⟩
    exact { listed with parked := by simp [Stream.tick], roles := fun roles => ⟨roles.producer, roles.once⟩ }
  · rw [passTime_timer]
    obtain ⟨running, period⟩ := h.timers i
    exact ⟨by simpa [countDown] using running, period⟩

/-- A parked ACQUIRE is that of a stream with a producer, which is LIVE or DRAINING. -/
theorem parked_produced (streams : StreamsSound s) (windows : Windows (fun _ => 0) s) (st : StreamId)
    (parked : (s.stream st).parked.isSome = true) : (s.stream st).producer.isSome = true ∧ (s.stream st).state ≠ .closed := by
  have produced := windows.parkedOwned st parked
  refine ⟨produced, fun closed => ?_⟩
  rcases (streams st).producer produced with hs | hs <;> rw [hs] at closed <;> cases closed

theorem tables_reset : Tables [] State.reset :=
  tablesSound_reset.tables fun st parked => by
    rw [reset_stream] at parked
    cases parked

/-- Every kind of change keeps the tables; that a port which lapses has nothing parked is read where its stream steps remove it. -/
theorem tables_stepKeeps : StepKeeps (Windows fun _ => 0) (Tables []) where
  assumed hn hw := windows_stepKeeps.neutral hn hw
  neutral hn h := h.of_ports hn.buffers hn.pools hn.streams hn.timers
  renewed p h := h.modPort p _
  taken {s p tag code check} payload _ h _ := executeRequest_of_portless (fun h => h.modPort _ _) payload
    (fun name _ => tables_requestBody (s := s.modPort p (takeFrame tag code check)) (h.modPort p _) name p tag payload) h
  replayed h _ := h.modPort _ _
  response p w h := h.modPort p _
  notice p w h := h.modPort p _
  timer i h running := h.modTimer i ⟨iff_of_true rfl running, (h.timers i).2⟩
  boundary st c _ h := h.takeBoundary st c
  wait st reply _ h := h.completeParked st reply
  deadline _ h he := h.expireEntry he
  sweepBegins p tag _ h _ := h.firstStage p tag
  streamStep {s p st} hw h due := h.streamStep fun produced => by
    by_contra parked
    obtain ⟨q, own, attached⟩ := hw.parked st (Option.isSome_iff_ne_none.mpr parked)
    cases own.symm.trans produced
    rw [due.1] at attached
    cases attached
  advance p next h := h.modPort p _
  thirdStage {s} p h := h.congr (fun _ => rfl) (fun k => by unfold State.pool; rw [get_mapBank]) (fun _ => rfl) fun i => by
    unfold State.timer
    rw [get_mapBank]
    exact h.timers i
  fourthStage p tag _ h _ := h.modPort p _
  reset s := tables_reset.of_ports rfl rfl rfl rfl
  time h := h.passTime

/-- Settles O60: every kind of change keeps the tables, with buffers loose while an operation is under way. -/
theorem stepKeepsTablesSound : Obligations.StepKeepsTablesSound := by
  intro s t streams windows tables ht
  obtain ⟨_, windows⟩ := windowsSound_iff.mp windows
  exact (tables_stepKeeps.step windows (tables.tables (parked_produced streams windows)) ht).sound

end tables

end Sys2Proof.Machine
end
